-- ==== Sys2Proof/Word.lean ====
section
/-! DEFINITION. The words of the CA block: the 32-bit command word, the 8-bit rule, the 10-bit index operand and the
1-bit cell with its value as a number. -/

namespace Sys2Proof

/-- The command word on `cmd[31:0]` (30_encoding.md R40). -/
abbrev Word := BitVec 32

/-- An elementary rule, 0..255 (40_rule_decoder.md R55). -/
abbrev Rule := BitVec 8

/-- An index field of the command word, 0..1023 (30_encoding.md R41, R42). -/
abbrev Index := BitVec 10

/-- One cell: `true` is 1, alive; `false` is 0, dead (00_scope.md R7). -/
abbrev Cell := Bool

/-- The rule table, `TABLE[0..7]` (10_state.md R11). -/
abbrev Table := Vector Cell 8

/-- A 1D generation of `n` cells, an ordered sequence with index 0 leftmost (10_state.md R13, 20_memory.md R26). A generation of
another length is no value of this type (60_exceptions.md R102, 93_implementation_defined.md U6). -/
abbrev Generation (n : Nat) := Vector Cell n

/-- A 2D grid of `r` rows and `c` columns, row 0 first and within a row column 0 first (10_state.md R14, 20_memory.md R28). A
ragged or mis-shaped grid is no value of this type (60_exceptions.md R102, 93_implementation_defined.md U6). -/
abbrev Grid (r c : Nat) := Vector (Vector Cell c) r

end Sys2Proof
end

