-- ==== Sys2Proof/Syntax.lean ====
section
/-! DEFINITION. The eight commands of the block as an inductive type, one constructor per row of spec/opcode_table.json,
and the names of the rows. -/

namespace Sys2Proof

/-- The rows of the opcode map (30_encoding.md R43, R44). -/
inductive Opcode where
  | nop | decode | clr1d | wr1d | step1d | clr2d | wr2d | step2d
  deriving DecidableEq, Repr

/-- A command with the operands its row uses (30_encoding.md R43). -/
inductive Instr where
  /-- NOP (43_array_access.md R85). -/
  | nop
  /-- DECODE rule (40_rule_decoder.md R58). -/
  | decode (rule : Rule)
  /-- CLR1D (43_array_access.md R86). -/
  | clr1d
  /-- WR1D i, v: `x` is the cell index, `v` the value `D[0]` (43_array_access.md R87). -/
  | wr1d (x : Index) (v : Cell)
  /-- STEP1D (41_stepper_1d.md R68). -/
  | step1d
  /-- CLR2D (43_array_access.md R88). -/
  | clr2d
  /-- WR2D i, j, v: `y` is the row index, `x` the column index, `v` the value `D[0]` (43_array_access.md R89). -/
  | wr2d (y x : Index) (v : Cell)
  /-- STEP2D (42_stepper_2d.md R80). -/
  | step2d
  deriving DecidableEq, Repr

/-- The row of the opcode map a command belongs to. -/
def Instr.opcode : Instr → Opcode
  | .nop => .nop
  | .decode _ => .decode
  | .clr1d => .clr1d
  | .wr1d _ _ => .wr1d
  | .step1d => .step1d
  | .clr2d => .clr2d
  | .wr2d _ _ _ => .wr2d
  | .step2d => .step2d

end Sys2Proof
end

