-- ==== Sys2Proof/Decode.lean ====
section
/-! DEFINITION. The command word: its fields, the opcode map with its match and mask words, the decoder (total on all
2^32 words, rejecting by name) and the encoder. -/

namespace Sys2Proof

/-! ## Fields of format `C` (30_encoding.md R41) -/

/-- `OP = cmd[31:28]`. -/
def opField (w : Word) : BitVec 4 := w.extractLsb' 28 4

/-- `Y = cmd[27:18]`. -/
def yField (w : Word) : Index := w.extractLsb' 18 10

/-- `X = cmd[17:8]`. -/
def xField (w : Word) : Index := w.extractLsb' 8 10

/-- `D = cmd[7:0]`. -/
def dField (w : Word) : BitVec 8 := w.extractLsb' 0 8

/-- The word with the given fields, `OP` in the most significant bits (30_encoding.md R41). -/
def packFields (op : BitVec 4) (y x : Index) (d : BitVec 8) : Word := op ++ y ++ x ++ d

/-- A cell value as the field `D`: bit 0 is the value, `D[7:1]` is 0 (30_encoding.md R42). -/
def cellField (v : Cell) : BitVec 8 := (BitVec.ofBool v).setWidth 8

/-- The cell value `D[0]` (30_encoding.md R42). -/
def valueBit (w : Word) : Cell := (dField w).getLsbD 0

/-! ## The opcode map (30_encoding.md R43, R44) -/

/-- The opcode numbers (30_encoding.md R43). -/
def Opcode.code : Opcode → BitVec 4
  | .nop => 0x0
  | .decode => 0x1
  | .clr1d => 0x2
  | .wr1d => 0x3
  | .step1d => 0x4
  | .clr2d => 0x5
  | .wr2d => 0x6
  | .step2d => 0x7

/-- The row with a given opcode number; none for 0x8 to 0xF (30_encoding.md R43). -/
def Opcode.ofCode (b : BitVec 4) : Option Opcode :=
  match b.toNat with
  | 0 => some .nop
  | 1 => some .decode
  | 2 => some .clr1d
  | 3 => some .wr1d
  | 4 => some .step1d
  | 5 => some .clr2d
  | 6 => some .wr2d
  | 7 => some .step2d
  | _ => none

/-- The `match` column of 30_encoding.md R44. -/
def Opcode.pattern : Opcode → Word
  | .nop => 0x00000000
  | .decode => 0x10000000
  | .clr1d => 0x20000000
  | .wr1d => 0x30000000
  | .step1d => 0x40000000
  | .clr2d => 0x50000000
  | .wr2d => 0x60000000
  | .step2d => 0x70000000

/-- The `mask` column of 30_encoding.md R44. -/
def Opcode.mask : Opcode → Word
  | .nop => 0xFFFFFFFF
  | .decode => 0xFFFFFF00
  | .clr1d => 0xFFFFFFFF
  | .wr1d => 0xFFFC00FE
  | .step1d => 0xFFFFFFFF
  | .clr2d => 0xFFFFFFFF
  | .wr2d => 0xF00000FE
  | .step2d => 0xFFFFFFFF

/-- The rows in the table's order. -/
def Opcode.all : List Opcode := [.nop, .decode, .clr1d, .wr1d, .step1d, .clr2d, .wr2d, .step2d]

/-- The command of a row with its operands read from the fields of `w` (30_encoding.md R42, R43). -/
def Opcode.operands (o : Opcode) (w : Word) : Instr :=
  match o with
  | .nop => .nop
  | .decode => .decode (dField w)
  | .clr1d => .clr1d
  | .wr1d => .wr1d (xField w) (valueBit w)
  | .step1d => .step1d
  | .clr2d => .clr2d
  | .wr2d => .wr2d (yField w) (xField w) (valueBit w)
  | .step2d => .step2d

/-! ## The decoder -/

/-- What a command word is: a command, or one of the two rejections that depend on the word alone. -/
inductive Decoded where
  /-- A well-formed instance of a row of the opcode map. -/
  | instr (i : Instr)
  /-- `OP` is 0x8 to 0xF (30_encoding.md R46). -/
  | illegalOpcode
  /-- `OP` is 0x0 to 0x7 and a field reserved for it holds a 1 (30_encoding.md R45). -/
  | reservedField
  deriving DecidableEq, Repr

/-- The fields reserved for a row are all 0, field by field (30_encoding.md R44, column "reserved"; 60_exceptions.md R95). -/
def Opcode.reservedZero (o : Opcode) (w : Word) : Bool :=
  match o with
  | .nop => yField w == 0 && xField w == 0 && dField w == 0
  | .decode => yField w == 0 && xField w == 0
  | .clr1d => yField w == 0 && xField w == 0 && dField w == 0
  | .wr1d => yField w == 0 && decide ((dField w).toNat < 2)
  | .step1d => yField w == 0 && xField w == 0 && dField w == 0
  | .clr2d => yField w == 0 && xField w == 0 && dField w == 0
  | .wr2d => decide ((dField w).toNat < 2)
  | .step2d => yField w == 0 && xField w == 0 && dField w == 0

/-- The decoder: the opcode first, then the reserved fields of its row (30_encoding.md R45, R46, R48). -/
def decodeWord (w : Word) : Decoded :=
  match Opcode.ofCode (opField w) with
  | none => .illegalOpcode
  | some o => if o.reservedZero w then .instr (o.operands w) else .reservedField

/-- The instruction a decoder answer holds, if any. -/
def Decoded.instr? : Decoded → Option Instr
  | .instr i => some i
  | .illegalOpcode => none
  | .reservedField => none

/-- The word of a command: every field a row does not use is 0 (30_encoding.md R44, R50). -/
def encode : Instr → Word
  | .nop => packFields 0x0 0 0 0
  | .decode rule => packFields 0x1 0 0 rule
  | .clr1d => packFields 0x2 0 0 0
  | .wr1d x v => packFields 0x3 0 x (cellField v)
  | .step1d => packFields 0x4 0 0 0
  | .clr2d => packFields 0x5 0 0 0
  | .wr2d y x v => packFields 0x6 y x (cellField v)
  | .step2d => packFields 0x7 0 0 0

/-- The command the decoder reads from the `nbits` bits of `w`, numbered as spec/opcode_table.json numbers them: a command
is one 32-bit word, so the table's numbering is the word's own. -/
def decodeTableWord (nbits w : Nat) : Option Instr :=
  (decodeWord (BitVec.ofNat 32 (w % 2 ^ nbits))).instr?

end Sys2Proof
end

