-- ==== Sys2Proof/Config.lean ====
section
/-! DEFINITION. What a build of the block fixes: the three size parameters N, R and C (00_scope.md R6). The spec leaves no
result, flag or register undefined after a command, so there is no free value here. -/

namespace Sys2Proof

/-- The size parameters of a block, "fixed when the block is built and never changed while it runs" (00_scope.md R6). -/
structure Params where
  /-- `N`, the number of cells of the 1D generation. -/
  n : Nat
  /-- `R`, the number of rows of the 2D grid. -/
  r : Nat
  /-- `C`, the number of columns of the 2D grid. -/
  c : Nat
  deriving DecidableEq, Repr

/-- The legal range of the parameters, 1 to 1024 each (00_scope.md R6). -/
abbrev Params.Legal (p : Params) : Prop :=
  (1 ≤ p.n ∧ p.n ≤ 1024) ∧ (1 ≤ p.r ∧ p.r ≤ 1024) ∧ (1 ≤ p.c ∧ p.c ≤ 1024)

/-- The default column of the table in 00_scope.md R6. DESIGN CHOICE (log entry 3): the machine of `State.reset` is built
with these sizes. Unsafe for a statement that rests on them; every statement here holds for all legal sizes. -/
def Params.default : Params := { n := 100, r := 50, c := 50 }

end Sys2Proof
end

