-- ==== Sys2Proof/Machine/State.lean ====
section
/-! DEFINITION. The state of the block, its input ports, the names of what stops a step, and the state after reset. -/

namespace Sys2Proof.Machine

/-- The input ports as the host drives them at one rising edge of `clk` (10_state.md R20). -/
structure PortIn where
  /-- `rst`, synchronous reset, active high. -/
  rst : Bool
  /-- `cmd_valid`, 1 when `cmd` holds a command to execute at this edge. -/
  cmdValid : Bool
  /-- `cmd`, the command word. -/
  cmd : Word
  deriving DecidableEq, Repr

/-- The causes of 60_exceptions.md R93. Raising one is fault entry, a next state of the block (log entry 5). -/
inductive Cause where
  /-- Cause 1, raised by a word with `OP` 0x8 to 0xF. -/
  | illegalOpcode
  /-- Cause 2, raised by a word with a 1 in a field reserved for its opcode. -/
  | reservedField
  /-- Cause 3, raised by WR1D and WR2D with an index outside the array. -/
  | indexOutOfRange
  deriving DecidableEq, Repr

/-- Why a step would stop the model. It has no constructor: the spec gives every edge an effect (60_exceptions.md R97), and a
fault of the block is a next state with `FAULT` = 1 (R98). -/
inductive Fault
  deriving DecidableEq, Repr

/-- Why an instruction would have no meaning. -/
inductive Refusal where
  /-- Raised by `exec` alone, for an instruction without a meaning; no arm raises it now. Safe. -/
  | notModelled (mnemonic : String)
  deriving DecidableEq, Repr

/-- The block with what surrounds it. `table`, `gen`, `grid`, `fault` and `fcause` are the complete state of the block
(10_state.md R10); the types of `gen` and `grid` hold exactly the arrays of the sizes in `params`, so that a ragged or mis-shaped
array "cannot be expressed in the block's state" (60_exceptions.md R102). `params` is its configuration (00_scope.md R6) and `pins`
its coming inputs (10_state.md R20); both are the model's own fields (DESIGN CHOICE, log entries 1 and 3). -/
structure State where
  /-- The sizes the block was built with; no step changes them. -/
  params : Params
  /-- What the host drives on the input ports at the coming rising edges, the next edge first. -/
  pins : List PortIn
  /-- `TABLE[0..7]` (10_state.md R11). -/
  table : Table
  /-- `GEN[0..N-1]` (10_state.md R13). -/
  gen : Generation params.n
  /-- `GRID[0..R-1][0..C-1]` (10_state.md R14). -/
  grid : Grid params.r params.c
  /-- `FAULT` (10_state.md R15). -/
  fault : Bool
  /-- `FCAUSE` (10_state.md R16). -/
  fcause : BitVec 2
  deriving DecidableEq, Repr

/-- The block of sizes `p` after a reset: every bit of state is 0 (10_state.md R22). -/
def State.resetWith (p : Params) : State :=
  { params := p
    pins := []
    table := #v[false, false, false, false, false, false, false, false]
    gen := Vector.replicate p.n false
    grid := Vector.replicate p.r (Vector.replicate p.c false)
    fault := false
    fcause := 0 }

/-- The block of the default sizes after a reset (10_state.md R22), with no input scheduled (log entries 1 to 3). -/
def State.reset : State := State.resetWith Params.default

end Sys2Proof.Machine
end

