-- ==== Sys2Proof/Machine/Flags.lean ====
section
/-! DEFINITION. The status of the block. There are no condition codes (10_state.md R17): the only status is `FAULT` and
`FCAUSE`, written by fault entry and reset and by nothing that computes a result. -/

namespace Sys2Proof.Machine

/-- The code a cause leaves in `FCAUSE` (60_exceptions.md R93). -/
def Cause.code : Cause → BitVec 2
  | .illegalOpcode => 1
  | .reservedField => 2
  | .indexOutOfRange => 3

/-- The frozen state: `FAULT` = 1 (60_exceptions.md R99). -/
def State.frozen (s : State) : Bool := s.fault

end Sys2Proof.Machine
end

