-- ==== Sys2Proof/Machine/Ops.lean ====
section
/-! DEFINITION. The named operations of the block: reading and writing a cell, replacing an array, taking the inputs of the
next edge, fault entry (the one exception of the block) and reset (the only way out of it). -/

namespace Sys2Proof.Machine

/-! ## Cells (00_scope.md section 4, `MemRead` and `MemWrite`)

A cell is read and written under an index that exists: no command reads or writes outside an array (20_memory.md R30), and the
neighbourhoods of the steppers hold existing cells only (41_stepper_1d.md R62, 42_stepper_2d.md R73). -/

/-- Entry `i` of an array, the same as `a[i]`: a lookup in the list of entries, which never misses, because Lean's kernel evaluates
it with less work. -/
def entryAt {α : Type} {n : Nat} (a : Vector α n) (i : Fin n) : α := (a.toList[i.val]?).get (by simp)

/-- `G[i][j]`. -/
def gridCellAt {r c : Nat} (G : Grid r c) (i : Fin r) (j : Fin c) : Cell := entryAt (entryAt G i) j

/-- The generation with cell `i` replaced. -/
def setCell {n : Nat} (g : Generation n) (i : Fin n) (v : Cell) : Generation n := g.set i v

/-- The grid with the cell in row `i`, column `j` replaced. -/
def setGridCell {r c : Nat} (G : Grid r c) (i : Fin r) (j : Fin c) (v : Cell) : Grid r c := G.set i (G[i].set j v)

/-! ## Updates of the state -/

/-- `TABLE <- T`. -/
def State.setTable (s : State) (T : Table) : State := { s with table := T }

/-- `GEN <- g`. -/
def State.setGen (s : State) (g : Generation s.params.n) : State := { s with gen := g }

/-- `GRID <- G`. -/
def State.setGrid (s : State) (G : Grid s.params.r s.params.c) : State := { s with grid := G }

/-- `GEN[i] <- v`. -/
def State.writeGen (s : State) (i : Fin s.params.n) (v : Cell) : State := s.setGen (setCell s.gen i v)

/-- `GRID[i][j] <- v`. -/
def State.writeGrid (s : State) (ij : Fin s.params.r × Fin s.params.c) (v : Cell) : State :=
  s.setGrid (setGridCell s.grid ij.1 ij.2 v)

/-- Every cell of `GEN` 0 (43_array_access.md R86). -/
def State.clearGen (s : State) : State := s.setGen (Vector.replicate s.params.n false)

/-- Every cell of `GRID` 0 (43_array_access.md R88). -/
def State.clearGrid (s : State) : State :=
  s.setGrid (Vector.replicate s.params.r (Vector.replicate s.params.c false))

/-! ## The input ports (10_state.md R20) -/

/-- An idle port: no reset and no command. -/
def PortIn.idle : PortIn := { rst := false, cmdValid := false, cmd := 0 }

/-- A port that presents the command word `w` (30_encoding.md R50, last paragraph). -/
def PortIn.command (w : Word) : PortIn := { rst := false, cmdValid := true, cmd := w }

/-- What the ports hold at the next rising edge. DESIGN CHOICE (log entry 2): with nothing scheduled the port is idle, which
holds the state (60_exceptions.md R104, 30_encoding.md R49). -/
def State.port (s : State) : PortIn := s.pins.headD PortIn.idle

/-- The state with the inputs of the next edge consumed (20_memory.md R37: a command word is not stored). -/
def State.advance (s : State) : State := { s with pins := s.pins.tail }

/-- The state with the port values `es` placed before what the host has scheduled. -/
def State.schedule (s : State) (es : List PortIn) : State := { s with pins := es ++ s.pins }

/-! ## Fault entry and reset -/

/-- Fault entry with a cause: `FAULT <- 1`, `FCAUSE <- c`, and nothing else is written (60_exceptions.md R98). -/
def State.enterFault (s : State) (c : Cause) : State := { s with fault := true, fcause := c.code }

/-- Reset, the only way out of a fault (60_exceptions.md R100, 70_reset_and_hazards.md R107): every bit of the block's state is
0. DEDUCED (log entry 6): the sizes and what the host drives next are not the block's state, and stay. -/
def State.hardReset (s : State) : State := { State.resetWith s.params with pins := s.pins }

/-- What a command does to the block unless it is frozen: "While `FAULT` = 1 every command is ignored"
(60_exceptions.md R99, and the Faults line of each command's rule). -/
def State.unlessFrozen (s : State) (o : Host.Outcome State Fault Refusal) : Host.Outcome State Fault Refusal :=
  if s.frozen then .next s else o

end Sys2Proof.Machine
end

