-- ==== Sys2Proof/Machine/Operands.lean ====
section
/-! DEFINITION. The operand forms. There is one addressing mode: an index field taken as it stands, unsigned, without base,
offset or scaling (30_encoding.md R42, 43_array_access.md "Addressing modes"). The data operand is a rule or a cell value. -/

namespace Sys2Proof.Machine

/-- An index field as the number it stands for (30_encoding.md R42). -/
abbrev indexValue (x : Index) : Nat := x.toNat

/-- The index among `n` that an index operand names; none exactly if there is no such index (20_memory.md R30). -/
def cellNamed? (n : Nat) (x : Index) : Option (Fin n) := if h : indexValue x < n then some ⟨indexValue x, h⟩ else none

/-- The cell of `GEN` that WR1D names: `X < N` (43_array_access.md R87). -/
def State.genCell? (s : State) (x : Index) : Option (Fin s.params.n) := cellNamed? s.params.n x

/-- The cell of `GRID` that WR2D names: `Y < R` and `X < C`, each against its own bound (43_array_access.md R89). -/
def State.gridCell? (s : State) (y x : Index) : Option (Fin s.params.r × Fin s.params.c) :=
  match cellNamed? s.params.r y, cellNamed? s.params.c x with
  | some i, some j => some (i, j)
  | _, _ => none

/-- A command on the cell its operands name: cause 3 and nothing written if there is no such cell (60_exceptions.md R96), else the
state the write gives. -/
def State.onCell {α : Type} (s : State) (cell? : Option α) (write : α → State) : Host.Outcome State Fault Refusal :=
  match cell? with
  | some i => .next (write i)
  | none => .next (s.enterFault .indexOutOfRange)

end Sys2Proof.Machine
end

