-- ==== Sys2Proof/Machine/ArrayAccess.lean ====
section
/-! DEFINITION. The housekeeping and array access commands (43_array_access.md): NOP, CLR1D, WR1D, CLR2D, WR2D. -/

namespace Sys2Proof.Machine

/-- NOP: no state read, no state written (43_array_access.md R85). -/
def execNop (s : State) : Host.Outcome State Fault Refusal := s.unlessFrozen (.next s)

/-- CLR1D: `GEN[i] <- 0` for every `i` (43_array_access.md R86). -/
def execClr1d (s : State) : Host.Outcome State Fault Refusal := s.unlessFrozen (.next s.clearGen)

/-- WR1D: cause 3 if `X >= N`, else `GEN[X] <- D[0]` (43_array_access.md R87). -/
def execWr1d (x : Index) (v : Cell) (s : State) : Host.Outcome State Fault Refusal :=
  s.unlessFrozen (s.onCell (s.genCell? x) fun i => s.writeGen i v)

/-- CLR2D: `GRID[i][j] <- 0` for every `i` and `j` (43_array_access.md R88). -/
def execClr2d (s : State) : Host.Outcome State Fault Refusal := s.unlessFrozen (.next s.clearGrid)

/-- WR2D: cause 3 if `Y >= R` or `X >= C`, else `GRID[Y][X] <- D[0]` (43_array_access.md R89). -/
def execWr2d (y x : Index) (v : Cell) (s : State) : Host.Outcome State Fault Refusal :=
  s.unlessFrozen (s.onCell (s.gridCell? y x) fun ij => s.writeGrid ij v)

end Sys2Proof.Machine
end

