-- ==== Sys2Proof/Machine/RuleDecoder.lean ====
section
/-! DEFINITION. The Rule Decoder (40_rule_decoder.md): the decode function, its inverse, its integer form, and DECODE. -/

namespace Sys2Proof.Machine

/-- `decode(rule)`: `T[k] = rule[7 - k]`, most significant bit first (40_rule_decoder.md R55). -/
def decodeRule (rule : Rule) : Table := Vector.ofFn fun k => rule.getLsbD (7 - k.val)

/-- `encode(T)`, the sum of `T[k] * 2^(7-k)`: the eight entries reassembled as a big-endian binary number
(40_rule_decoder.md R57). -/
def encodeRule (T : Table) : Rule :=
  BitVec.ofNat 8 ((List.finRange 8).map fun k => T[k].toNat * 2 ^ (7 - k.val)).sum

/-- `decode` of an unbounded integer: refused outside [0,255], never wrapped or clamped (40_rule_decoder.md R59). -/
def decodeRuleInt (rule : Int) : Option Table :=
  if 0 ≤ rule ∧ rule ≤ 255 then some (decodeRule (BitVec.ofInt 8 rule)) else none

/-- DECODE: `TABLE <- decode(D)` (40_rule_decoder.md R58). -/
def execDecode (rule : Rule) (s : State) : Host.Outcome State Fault Refusal :=
  s.unlessFrozen (.next (s.setTable (decodeRule rule)))

end Sys2Proof.Machine
end

