-- ==== Sys2Proof/Machine/Stepper1D.lean ====
section
/-! DEFINITION. The 1D Stepper (41_stepper_1d.md): the neighbourhood value, the lookup, the boundary clamp, and STEP1D. -/

namespace Sys2Proof.Machine

/-- An interior index: `1 <= i <= n - 2` (41_stepper_1d.md R62). -/
abbrev Interior (n i : Nat) : Prop := 1 ≤ i ∧ i + 2 ≤ n

/-- `v(g, i) = 4*g[i-1] + 2*g[i] + g[i+1]`, for interior `i` only (41_stepper_1d.md R62). -/
def neighbourhood {n : Nat} (g : Generation n) (i : Nat) (h : Interior n i) : Nat :=
  4 * g[i - 1].toNat + 2 * g[i].toNat + g[i + 1].toNat

/-- The table entry at index `7 - v` (41_stepper_1d.md R63); `v` is at most 7 (R62), so the difference never truncates. -/
def lookup (T : Table) (v : Nat) : Cell := T[7 - v]

/-- The next state of cell `i`: the lookup for an interior cell, 0 for a boundary cell (41_stepper_1d.md R66). -/
def nextCell1d {n : Nat} (T : Table) (g : Generation n) (i : Nat) : Cell :=
  if h : Interior n i then lookup T (neighbourhood g i h) else false

/-- `step1d(T, g)`, of the same length, every cell from the same old generation (41_stepper_1d.md R66, R67). -/
def step1d {n : Nat} (T : Table) (g : Generation n) : Generation n := Vector.ofFn fun i => nextCell1d T g i

/-- STEP1D: `GEN <- step1d(TABLE, GEN)` (41_stepper_1d.md R68). -/
def execStep1d (s : State) : Host.Outcome State Fault Refusal :=
  s.unlessFrozen (.next (s.setGen (step1d s.table s.gen)))

end Sys2Proof.Machine
end

