-- ==== Sys2Proof/Machine/Stepper2D.lean ====
section
/-! DEFINITION. The 2D Stepper (42_stepper_2d.md): the clipped neighbourhood, the count, the transition, and STEP2D. -/

namespace Sys2Proof.Machine

/-- `max(0, i-1), ..., min(m-1, i+1)`: the indices next to `i` among `m`, `i` among them (42_stepper_2d.md R73). -/
def clipped {m : Nat} (i : Fin m) : List (Fin m) :=
  (if h : 1 ≤ i.val then [⟨i.val - 1, by omega⟩] else []) ++ [i] ++
  (if h : i.val + 1 < m then [⟨i.val + 1, h⟩] else [])

/-- `block(i, j)`, the existing cells of the 3x3 block around a cell, row by row (42_stepper_2d.md R73). -/
def block {r c : Nat} (i : Fin r) (j : Fin c) : List (Fin r × Fin c) :=
  (clipped i).flatMap fun a => (clipped j).map fun b => (a, b)

/-- The number of live cells in a list of cells. -/
def liveSum {r c : Nat} (G : Grid r c) (cells : List (Fin r × Fin c)) : Nat :=
  (cells.map fun ab => (gridCellAt G ab.1 ab.2).toNat).sum

/-- `n(G, i, j)`: the sum over the block less the cell's own value (42_stepper_2d.md R74). -/
def neighbourCount {r c : Nat} (G : Grid r c) (i : Fin r) (j : Fin c) : Nat :=
  liveSum G (block i j) - (gridCellAt G i j).toNat

/-- The transition of a cell with `n` live neighbours, in the order of the document's three sentences (42_stepper_2d.md R75). -/
def lifeRule (cell : Cell) (n : Nat) : Cell :=
  if cell = true ∧ (n < 2 ∨ n > 3) then false
  else if cell = false ∧ n = 3 then true
  else cell

/-- The next state of the cell in row `i`, column `j` (42_stepper_2d.md R78). -/
def nextCell2d {r c : Nat} (G : Grid r c) (i : Fin r) (j : Fin c) : Cell := lifeRule (gridCellAt G i j) (neighbourCount G i j)

/-- `step2d(G)`, of the same shape, every cell from the same old grid (42_stepper_2d.md R77, R78). -/
def step2d {r c : Nat} (G : Grid r c) : Grid r c := Vector.ofFn fun i => Vector.ofFn fun j => nextCell2d G i j

/-- STEP2D: `GRID <- step2d(GRID)` (42_stepper_2d.md R80). -/
def execStep2d (s : State) : Host.Outcome State Fault Refusal :=
  s.unlessFrozen (.next (s.setGrid (step2d s.grid)))

end Sys2Proof.Machine
end

