-- ==== Sys2Proof/Machine/Dispatch.lean ====
section
/-! DEFINITION. One arm per command: each calls its meaning. -/

namespace Sys2Proof.Machine

/-- The command executes by its rule (60_exceptions.md R97, item 5). -/
def exec (i : Instr) (s : State) : Host.Outcome State Fault Refusal :=
  match i with
  | .nop => Sys2Proof.Machine.execNop s
  | .decode rule => Sys2Proof.Machine.execDecode rule s
  | .clr1d => Sys2Proof.Machine.execClr1d s
  | .wr1d x v => Sys2Proof.Machine.execWr1d x v s
  | .step1d => Sys2Proof.Machine.execStep1d s
  | .clr2d => Sys2Proof.Machine.execClr2d s
  | .wr2d y x v => Sys2Proof.Machine.execWr2d y x v s
  | .step2d => Sys2Proof.Machine.execStep2d s

end Sys2Proof.Machine
end

