-- ==== Sys2Proof/Machine/Clock.lean ====
section
/-! DEFINITION. What one rising edge of `clk` does, and how a command comes to stand on the port. -/

namespace Sys2Proof.Machine

/-- What the command word does to a block that is neither in reset nor frozen: fault entry for a word the decoder rejects, else
the command's own rule, which checks its index operands (60_exceptions.md R97, items 4 and 5). -/
def State.runWord (s : State) (w : Word) : Host.Outcome State Fault Refusal :=
  match decodeWord w with
  | .illegalOpcode => .next (s.enterFault .illegalOpcode)
  | .reservedField => .next (s.enterFault .reservedField)
  | .instr i => exec i s

/-- One rising edge with the port values `e`, by the priority of 60_exceptions.md R97: reset, then frozen, then no command, then
the command word. -/
def State.clockEdge (s : State) (e : PortIn) : Host.Outcome State Fault Refusal :=
  if e.rst then .next s.hardReset
  else if s.frozen then .next s
  else if !e.cmdValid then .next s
  else s.runWord e.cmd

/-- The state with the command word `w` (its low `nbits` bits, the rest 0) presented at the very next edge, before whatever the
host had scheduled (log entry 1). -/
def State.presentWord (s : State) (nbits w : Nat) : State :=
  s.schedule [PortIn.command (BitVec.ofNat 32 (w % 2 ^ nbits))]

end Sys2Proof.Machine
end

