-- ==== Sys2Proof/Machine/Step.lean ====
section
/-! DEFINITION. The step of the machine: the next rising edge of `clk` with the inputs the host drives at it. -/

namespace Sys2Proof.Machine

/-- One rising edge of `clk` (10_state.md R20, 60_exceptions.md R97). -/
def step (s : State) : Host.Outcome State Fault Refusal := s.advance.clockEdge s.port

/-- `s` with the instruction of `nbits` bits `w` presented at the next edge, so that `step` runs it if the block is not frozen. -/
def State.withFetchWord (s : State) (nbits w : Nat) : State := s.presentWord nbits w

end Sys2Proof.Machine
end

