-- ==== Sys2Proof/Machine/Assembler.lean ====
section
/-! DEFINITION. The spec's notation for command sequences (30_encoding.md R50, R51) and the host's two driving loops as command
lists (70_reset_and_hazards.md R111, R112). It is beside the machine: no step uses it. -/

namespace Sys2Proof.Machine

/-! ## Lines and their words (30_encoding.md R50) -/

/-- One line of the assembler syntax, operands as the numbers written. -/
inductive AsmLine where
  | nop
  | decode (rule : Nat)
  | clr1d
  | wr1d (i v : Nat)
  | step1d
  | clr2d
  | wr2d (i j v : Nat)
  | step2d
  /-- `.word w`, any 32-bit value. -/
  | word (w : Nat)
  deriving DecidableEq, Repr

/-- The word a line encodes; none for "an operand outside the range in the table" (30_encoding.md R50). The assembler does not
know N, R, C: an index the block faults on is accepted. -/
def AsmLine.assemble : AsmLine → Option Word
  | .nop => some 0x00000000
  | .decode rule => if rule ≤ 255 then some (BitVec.ofNat 32 (0x10000000 + rule)) else none
  | .clr1d => some 0x20000000
  | .wr1d i v => if i ≤ 1023 ∧ v ≤ 1 then some (BitVec.ofNat 32 (0x30000000 + i * 2 ^ 8 + v)) else none
  | .step1d => some 0x40000000
  | .clr2d => some 0x50000000
  | .wr2d i j v =>
    if i ≤ 1023 ∧ j ≤ 1023 ∧ v ≤ 1 then some (BitVec.ofNat 32 (0x60000000 + i * 2 ^ 18 + j * 2 ^ 8 + v)) else none
  | .step2d => some 0x70000000
  | .word w => if w < 2 ^ 32 then some (BitVec.ofNat 32 w) else none

/-- The words of a sequence of lines, one clock each; none if the assembler refuses one of them. -/
def assembleAll : List AsmLine → Option (List Word)
  | [] => some []
  | l :: ls =>
    match l.assemble, assembleAll ls with
    | some w, some ws => some (w :: ws)
    | _, _ => none

/-- The host presents a sequence of words, one at each coming edge (30_encoding.md R50). -/
def State.presentAll (s : State) (ws : List Word) : State := s.schedule (ws.map PortIn.command)

/-! ## Pseudo-instructions (30_encoding.md R51) -/

/-- The pseudo-instructions. -/
inductive Pseudo where
  /-- `SEED1D` -/
  | seed1d
  /-- `LOAD1D b0 b1 ... b(N-1)` -/
  | load1d (bits : List Cell)
  /-- `LOAD2D row0 / row1 / ... / row(R-1)` -/
  | load2d (rows : List (List Cell))
  /-- `RUN1D g` -/
  | run1d (g : Nat)
  /-- `RUN2D g` -/
  | run2d (g : Nat)
  deriving DecidableEq, Repr

/-- `WR1D i, 1` for each live cell, in increasing `i`. -/
def liveWrites1d (bits : List Cell) : List AsmLine :=
  (bits.zipIdx.filter (·.1)).map fun b => AsmLine.wr1d b.2 1

/-- `WR2D i, j, 1` for each live cell, in increasing `i` then increasing `j`. -/
def liveWrites2d (rows : List (List Cell)) : List AsmLine :=
  rows.zipIdx.flatMap fun row => (row.1.zipIdx.filter (·.1)).map fun b => AsmLine.wr2d row.2 b.2 1

/-- The expansion for a block of sizes `p`; none if the digits given are not those of a whole generation or grid. -/
def Pseudo.expand (p : Params) : Pseudo → Option (List AsmLine)
  | .seed1d => some [.clr1d, .wr1d (p.n / 2) 1]
  | .load1d bits => if bits.length = p.n then some (.clr1d :: liveWrites1d bits) else none
  | .load2d rows =>
    if rows.length = p.r ∧ ∀ row ∈ rows, row.length = p.c then some (.clr2d :: liveWrites2d rows) else none
  | .run1d g => some (List.replicate g .step1d)
  | .run2d g => some (List.replicate g .step2d)

/-! ## The host's driving loops (70_reset_and_hazards.md R111, R112; host software, 00_scope.md R5) -/

/-- The commands of the 1D History Builder: DECODE, SEED1D, then `generations - 1` STEP1D, for a positive `generations` (R111).
DESIGN CHOICE (log entry 11): for 0, for which the spec states nothing (91_not_in_source.md N4), the difference truncates and the
list is that of 1 generation. -/
def historyBuilder (p : Params) (rule generations : Nat) : List AsmLine :=
  [.decode rule, .clr1d, .wr1d (p.n / 2) 1] ++ List.replicate (generations - 1) .step1d

/-- The commands of the 2D Simulation Loop on the initial grid `rows`: LOAD2D, then `generations` STEP2D (R112). DESIGN CHOICE (log
entry 11): for 0 generations the list is the LOAD2D alone, and a block with R and C different is taken as well. -/
def simulationLoop (p : Params) (rows : List (List Cell)) (generations : Nat) : Option (List AsmLine) :=
  ((Pseudo.load2d rows).expand p).map fun ls => ls ++ List.replicate generations .step2d

/-! ## The text of a line (30_encoding.md R50). DESIGN CHOICE (log entry 8) where the spec does not say how blanks stand. -/

/-- A blank. -/
def isBlank (ch : Char) : Bool := ch == ' ' || ch == '\t'

/-- The text without the blanks at its two ends. -/
def trimBlanks (cs : List Char) : List Char := ((cs.dropWhile isBlank).reverse.dropWhile isBlank).reverse

/-- The text up to a `;`, which starts a comment. -/
def stripComment (cs : List Char) : List Char := cs.takeWhile (· != ';')

/-- The pieces of a text between the separators `sep`. -/
def piecesAt (sep : Char) : List Char → List (List Char)
  | [] => [[]]
  | ch :: rest =>
    if ch == sep then [] :: piecesAt sep rest
    else
      match piecesAt sep rest with
      | [] => [[ch]]
      | first :: more => (ch :: first) :: more

/-- The value of a digit in base `b`, letters of either case for ten and up. -/
def digitValue (b : Nat) (ch : Char) : Option Nat :=
  let k := ch.toNat
  let v := if 48 ≤ k ∧ k ≤ 57 then k - 48 else if 65 ≤ k ∧ k ≤ 70 then k - 55 else if 97 ≤ k ∧ k ≤ 102 then k - 87 else b
  if v < b then some v else none

/-- The digits of a number in base `b`, read after a prefix of value `acc`. -/
def digitsValue (b acc : Nat) : List Char → Option Nat
  | [] => some acc
  | ch :: rest => (digitValue b ch).bind fun v => digitsValue b (b * acc + v) rest

/-- A number: "decimal, or hexadecimal with `0x`, or binary with `0b`". -/
def numberValue (cs : List Char) : Option Nat :=
  match cs with
  | '0' :: 'x' :: d :: ds => digitsValue 16 0 (d :: ds)
  | '0' :: 'b' :: d :: ds => digitsValue 2 0 (d :: ds)
  | d :: ds => digitsValue 10 0 (d :: ds)
  | [] => none

/-- The operands of a line: none for an empty text, else the numbers between the commas. -/
def operandValues (cs : List Char) : Option (List Nat) :=
  if cs = [] then some [] else (piecesAt ',' cs).mapM fun piece => numberValue (trimBlanks piece)

/-- A string of cell digits, blanks left out. -/
def cellDigits (cs : List Char) : Option (List Cell) :=
  (cs.filter fun ch => !isBlank ch).mapM fun ch =>
    if ch == '0' then some false else if ch == '1' then some true else none

/-- The mnemonics of R50 with their operands. -/
def coreLine (m : List Char) (ops : List Nat) : Option AsmLine :=
  match ops with
  | [] =>
    if m = "NOP".toList then some .nop
    else if m = "CLR1D".toList then some .clr1d
    else if m = "STEP1D".toList then some .step1d
    else if m = "CLR2D".toList then some .clr2d
    else if m = "STEP2D".toList then some .step2d
    else none
  | [a] =>
    if m = "DECODE".toList then some (.decode a)
    else if m = ".word".toList then some (.word a)
    else none
  | [a, b] => if m = "WR1D".toList then some (.wr1d a b) else none
  | [a, b, d] => if m = "WR2D".toList then some (.wr2d a b d) else none
  | _ => none

/-- The pseudo-instructions of R51 with the text after the mnemonic. -/
def pseudoLine (m rest : List Char) : Option Pseudo :=
  if m = "SEED1D".toList then (if rest = [] then some .seed1d else none)
  else if m = "LOAD1D".toList then (cellDigits rest).map .load1d
  else if m = "LOAD2D".toList then ((piecesAt '/' rest).mapM cellDigits).map .load2d
  else if m = "RUN1D".toList then (numberValue rest).map .run1d
  else if m = "RUN2D".toList then (numberValue rest).map .run2d
  else none

/-- The lines a line of text stands for on a block of sizes `p`: nothing for a comment alone, one line for a mnemonic, the
expansion for a pseudo-instruction; none for a text the syntax does not have. -/
def parseLine (p : Params) (text : List Char) : Option (List AsmLine) :=
  let body := trimBlanks (stripComment text)
  let m := body.takeWhile fun ch => !isBlank ch
  let rest := trimBlanks (body.dropWhile fun ch => !isBlank ch)
  if m = [] then some []
  else
    match (operandValues rest).bind (coreLine m) with
    | some l => some [l]
    | none => (pseudoLine m rest).bind fun q => q.expand p

end Sys2Proof.Machine
end

