-- ==== Sys2Proof/Machine/Classify.lean ====
section
/-! DEFINITION. `classify` of 30_encoding.md R47, written from the match and mask words of R44: the reference the decoder and the
meanings are held against. The machine itself does not call it. -/

namespace Sys2Proof.Machine

/-- The outcome of a word. -/
inductive Classified where
  /-- The word faults with a cause. -/
  | fault (c : Cause)
  /-- The word executes a command. -/
  | execute (i : Instr)
  deriving DecidableEq, Repr

/-- "the row of rule R44 with match[31:28] == OP"; none exactly for `OP` 0x8 to 0xF. -/
def rowOf (w : Word) : Option Opcode := Opcode.all.find? fun o => opField o.pattern == opField w

/-- `classify(w)`; it "depends on the word and on the parameters N, R, C only, never on the state" (30_encoding.md R47). -/
def classify (p : Params) (w : Word) : Classified :=
  if 8 ≤ (opField w).toNat then .fault .illegalOpcode
  else
    match rowOf w with
    | none => .fault .illegalOpcode
    | some o =>
      if w &&& o.mask ≠ o.pattern then .fault .reservedField
      else if o = .wr1d ∧ p.n ≤ (xField w).toNat then .fault .indexOutOfRange
      else if o = .wr2d ∧ (p.r ≤ (yField w).toNat ∨ p.c ≤ (xField w).toNat) then .fault .indexOutOfRange
      else .execute (o.operands w)

end Sys2Proof.Machine
end

