-- ==== Sys2Proof/Machine/Ports.lean ====
section
/-! DEFINITION. The observation ports (10_state.md R21): combinational views of the state, valid at all times and without side
effect, hence functions of the state. -/

namespace Sys2Proof.Machine

/-- `table_o[k] = TABLE[k]`. -/
def State.tableO (s : State) : BitVec 8 := BitVec.ofFnLE fun k : Fin 8 => s.table[k]

/-- `gen_o[i] = GEN[i]`. -/
def State.genO (s : State) : BitVec s.params.n := BitVec.ofFnLE fun i => s.gen[i]

/-- Port bit `k = i*C + j` of a grid as its cell: `i` is the quotient and `j` the remainder by `C`. -/
def portCell {r c : Nat} (k : Fin (r * c)) : Fin r × Fin c := (k.divNat, k.modNat)

/-- `grid_o[i*C + j] = GRID[i][j]`. -/
def State.gridO (s : State) : BitVec (s.params.r * s.params.c) :=
  BitVec.ofFnLE fun k => s.grid[(portCell k).1][(portCell k).2]

/-- `fault_o`. -/
def State.faultO (s : State) : BitVec 1 := BitVec.ofBool s.fault

/-- `fcause_o`. -/
def State.fcauseO (s : State) : BitVec 2 := s.fcause

end Sys2Proof.Machine
end

