-- ==== Sys2Proof/Safety.lean ====
section
/-! DEFINITION. What the claims are stated in: the invariant of the block, the end of a run, and the two engines' shares. -/

namespace Sys2Proof.Machine

/-- "`FCAUSE` is 0 exactly when `FAULT` is 0" (10_state.md R16). -/
abbrev State.CauseMatches (s : State) : Prop := s.fcause = 0 ↔ s.fault = false

/-- The invariant of the block: legal sizes, cause and flag agree. That the arrays have the shapes of the sizes (10_state.md R24)
needs no clause: the type of `State` says it. -/
abbrev State.Inv (s : State) : Prop := s.params.Legal ∧ s.CauseMatches

/-- The result of a run that ends in `s`: the three arrays if `FAULT` = 0, nothing if the run has failed
(70_reset_and_hazards.md R117, 60_exceptions.md R99). -/
def State.result (s : State) : Option (Table × Generation s.params.n × Grid s.params.r s.params.c) :=
  if s.fault then none else some (s.table, s.gen, s.grid)

/-- The commands of the 1D engine (20_memory.md R39). -/
def engine1D : Instr → Bool
  | .nop => false
  | .decode _ => true
  | .clr1d => true
  | .wr1d _ _ => true
  | .step1d => true
  | .clr2d => false
  | .wr2d _ _ _ => false
  | .step2d => false

/-- The commands of the 2D engine (20_memory.md R39). -/
def engine2D : Instr → Bool
  | .nop => false
  | .decode _ => false
  | .clr1d => false
  | .wr1d _ _ => false
  | .step1d => false
  | .clr2d => true
  | .wr2d _ _ _ => true
  | .step2d => true

/-- The rows of a grid as lists, to compare grids of states whose sizes are not known to be the same. -/
def gridRows {r c : Nat} (G : Grid r c) : List (List Cell) := G.toList.map Vector.toList

/-- The arrays have the shapes that the sizes `p` give, counted cell by cell. -/
abbrev State.HasShape (s : State) (p : Params) : Prop :=
  s.gen.toList.length = p.n ∧ (gridRows s.grid).length = p.r ∧ ∀ row ∈ gridRows s.grid, row.length = p.c

/-- The grid extended by dead cells in every direction (42_stepper_2d.md R79). -/
def paddedAt {r c : Nat} (G : Grid r c) (a b : Int) : Cell :=
  if h : (0 ≤ a ∧ a < r) ∧ (0 ≤ b ∧ b < c) then G[a.toNat][b.toNat] else false

/-- A block that takes a command at an edge with the port values `e`: no reset, not frozen, `cmd_valid` = 1
(60_exceptions.md R97). -/
abbrev State.Takes (s : State) (e : PortIn) : Prop := e.rst = false ∧ s.fault = false ∧ e.cmdValid = true

/-- A block that takes a command at the next edge. -/
abbrev State.TakesCommand (s : State) : Prop := s.Takes s.port

/-- The host's schedule holds no reset edge. -/
abbrev State.NoResetScheduled (s : State) : Prop := ∀ e ∈ s.pins, e.rst = false

/-- Every command the host has scheduled that decodes is a NOP or satisfies `p`. -/
abbrev State.SchedulesOnly (s : State) (p : Instr → Bool) : Prop :=
  ∀ e ∈ s.pins, e.cmdValid = true → ∀ i, decodeWord e.cmd = .instr i → i = .nop ∨ p i = true

/-- The next state of an outcome, if it is one. -/
def next? : Host.Outcome State Fault Refusal → Option State
  | .next s => some s
  | .fault _ => none
  | .refused _ => none

end Sys2Proof.Machine
end

