-- ==== Sys2Proof/WellFormed.lean ====
section
/-! DEFINITION. The check of a command against the sizes of the block: its index operands lie inside the arrays
(20_memory.md R30). Everything else about a command holds by the types of `Instr`. -/

namespace Sys2Proof

/-- The index operands name cells that exist: WR1D `X < N`, WR2D `Y < R` and `X < C` (20_memory.md R30). -/
def Instr.wellFormed (p : Params) : Instr → Bool
  | .nop => true
  | .decode _ => true
  | .clr1d => true
  | .wr1d x _ => decide (x.toNat < p.n)
  | .step1d => true
  | .clr2d => true
  | .wr2d y x _ => decide (y.toNat < p.r) && decide (x.toNat < p.c)
  | .step2d => true

end Sys2Proof
end

