-- ==== Sys2Proof/Certificates/Slice0/Obligations.lean ====
section
/-! DEFINITION. The statements for the provers. Each docstring names the rule of spec/ it formalises. -/

open Sys2Proof Sys2Proof.Machine

/-! ## The command word -/

/-- Decoding the encoded word of a command gives the command back, for every operand (30_encoding.md R41 to R44). -/
def Obligations.EncodeThenDecodeGivesTheCommand : Prop := ∀ i : Instr, decodeWord (encode i) = .instr i

/-- A word that decodes is the encoded word of what it decodes to: no bit of the word is dropped (30_encoding.md R44, R45). -/
def Obligations.DecodeThenEncodeGivesTheWord : Prop :=
  ∀ (w : Word) (i : Instr), decodeWord w = .instr i → encode i = w

/-- 30_encoding.md R44: the match and mask words of the eight rows; a word is a well-formed instance of a row exactly when
`(w and mask) == match`, and it then carries the operands the row uses; and that is so exactly when `OP` is the row's and the
fields reserved for the row are 0. -/
def Obligations.RowInstanceIffMaskMatches : Prop :=
  (Opcode.all.map fun o => (o.pattern, o.mask)) =
    [(0x00000000, 0xFFFFFFFF), (0x10000000, 0xFFFFFF00), (0x20000000, 0xFFFFFFFF), (0x30000000, 0xFFFC00FE),
      (0x40000000, 0xFFFFFFFF), (0x50000000, 0xFFFFFFFF), (0x60000000, 0xF00000FE), (0x70000000, 0xFFFFFFFF)] ∧
  (∀ (w : Word) (o : Opcode), decodeWord w = .instr (o.operands w) ↔ w &&& o.mask = o.pattern) ∧
  (∀ (w : Word) (o : Opcode), w &&& o.mask = o.pattern ↔ opField w = o.code ∧ o.reservedZero w = true)

/-- 30_encoding.md R41: the four fields make up the word as a number. -/
def Obligations.FieldsMakeUpTheWord : Prop :=
  ∀ w : Word, w.toNat = (opField w).toNat * 2 ^ 28 + (yField w).toNat * 2 ^ 18 + (xField w).toNat * 2 ^ 8 + (dField w).toNat

/-- One word of each row, from the worked examples of the commands' rules and 95_test_vectors.md, decodes to its command. -/
def Obligations.WorkedExampleWordsDecode : Prop :=
  decodeWord 0x00000000 = .instr .nop ∧
  decodeWord 0x10000004 = .instr (.decode 4) ∧
  decodeWord 0x20000000 = .instr .clr1d ∧
  decodeWord 0x30000301 = .instr (.wr1d 3 true) ∧
  decodeWord 0x40000000 = .instr .step1d ∧
  decodeWord 0x50000000 = .instr .clr2d ∧
  decodeWord 0x60040201 = .instr (.wr2d 1 2 true) ∧
  decodeWord 0x70000000 = .instr .step2d

/-- 30_encoding.md R47 against the decoder: `classify` answers Execute exactly for a word that decodes to a command whose index
operands lie inside the arrays. -/
def Obligations.ClassifyExecutesTheWellFormed : Prop :=
  ∀ (p : Params) (w : Word) (i : Instr),
    classify p w = .execute i ↔ decodeWord w = .instr i ∧ i.wellFormed p = true

/-- The assembler's words (30_encoding.md R50): each line with operands in range encodes the command it names, and a line with
an operand out of range is refused. -/
def Obligations.AssembledLinesEncodeTheirCommands : Prop :=
  (∀ rule, rule ≤ 255 → (AsmLine.decode rule).assemble = some (encode (.decode (BitVec.ofNat 8 rule)))) ∧
  (∀ rule, 255 < rule → (AsmLine.decode rule).assemble = none) ∧
  (∀ i v, i ≤ 1023 → v ≤ 1 → (AsmLine.wr1d i v).assemble = some (encode (.wr1d (BitVec.ofNat 10 i) (v == 1)))) ∧
  (∀ i v, (1023 < i ∨ 1 < v) → (AsmLine.wr1d i v).assemble = none) ∧
  (∀ i j v, i ≤ 1023 → j ≤ 1023 → v ≤ 1 →
    (AsmLine.wr2d i j v).assemble = some (encode (.wr2d (BitVec.ofNat 10 i) (BitVec.ofNat 10 j) (v == 1)))) ∧
  (∀ i j v, (1023 < i ∨ 1023 < j ∨ 1 < v) → (AsmLine.wr2d i j v).assemble = none) ∧
  AsmLine.nop.assemble = some (encode .nop) ∧ AsmLine.clr1d.assemble = some (encode .clr1d) ∧
  AsmLine.step1d.assemble = some (encode .step1d) ∧ AsmLine.clr2d.assemble = some (encode .clr2d) ∧
  AsmLine.step2d.assemble = some (encode .step2d)

/-! ## What one edge does -/

/-- 60_exceptions.md R97: the priority list of an edge, with `classify` of 30_encoding.md R47 as the judge of the word. That the
sizes and the host's schedule outlast a reset is the model's choice (log entries 1, 3 and 6). -/
def Obligations.EdgeFollowsThePriorityList : Prop :=
  ∀ (s : State) (e : PortIn),
    s.clockEdge e =
      if e.rst = true then .next { State.resetWith s.params with pins := s.pins }
      else if s.fault = true then .next s
      else if e.cmdValid = false then .next s
      else
        match classify s.params e.cmd with
        | .fault c => .next { s with fault := true, fcause := c.code }
        | .execute i => exec i s

/-- A step runs the decoded command: a block that takes a command which decodes to `i` does what `exec i` does, the inputs of
the edge consumed (log entry 1). There is no program counter to move (10_state.md R18). -/
def Obligations.StepRunsTheDecodedCommand : Prop :=
  ∀ (s : State) (i : Instr), s.TakesCommand → decodeWord s.port.cmd = .instr i → step s = exec i s.advance

/-- 60_exceptions.md R94 and 30_encoding.md R46: a command faults with cause 1 exactly if `OP` is 0x8 to 0xF. -/
def Obligations.IllegalOpcodeIsCauseOne : Prop :=
  ∀ (s : State) (e : PortIn), s.Takes e →
    (s.clockEdge e = .next { s with fault := true, fcause := 1 } ↔ 8 ≤ (opField e.cmd).toNat)

/-- 60_exceptions.md R95: a command faults with cause 2 exactly if it does not match its row, that is, exactly if a field
reserved for its opcode is not zero. -/
def Obligations.ReservedFieldIsCauseTwo : Prop :=
  ∀ (s : State) (e : PortIn), s.Takes e →
    let w := e.cmd
    let op := (opField w).toNat
    let faultsWithTwo := s.clockEdge e = .next { s with fault := true, fcause := 2 }
    (faultsWithTwo ↔ ∃ o : Opcode, o.code = opField w ∧ w &&& o.mask ≠ o.pattern) ∧
    (faultsWithTwo ↔
      ((op = 0 ∨ op = 2 ∨ op = 4 ∨ op = 5 ∨ op = 7) ∧ (yField w ≠ 0 ∨ xField w ≠ 0 ∨ dField w ≠ 0)) ∨
      (op = 1 ∧ (yField w ≠ 0 ∨ xField w ≠ 0)) ∨
      (op = 3 ∧ (yField w ≠ 0 ∨ 2 ≤ (dField w).toNat)) ∨
      (op = 6 ∧ 2 ≤ (dField w).toNat))

/-- 60_exceptions.md R96: a command faults with cause 3 exactly if it is a WR1D with `X >= N` or a WR2D with `Y >= R` or
`X >= C` that did not already fault with cause 2. -/
def Obligations.IndexOutOfRangeIsCauseThree : Prop :=
  ∀ (s : State) (e : PortIn), s.Takes e →
    let w := e.cmd
    (s.clockEdge e = .next { s with fault := true, fcause := 3 } ↔
      ((opField w).toNat = 3 ∧ s.params.n ≤ (xField w).toNat ∧ yField w = 0 ∧ (dField w).toNat < 2) ∨
      ((opField w).toNat = 6 ∧ (s.params.r ≤ (yField w).toNat ∨ s.params.c ≤ (xField w).toNat) ∧ (dField w).toNat < 2))

/-- 30_encoding.md R49 on a step: with `cmd_valid` = 0 and no reset the word is ignored, whatever it is, and no state of the block
changes; the inputs of the edge are consumed (log entry 1). -/
def Obligations.IdleEdgeChangesNothing : Prop :=
  ∀ s : State, s.port.rst = false → s.port.cmdValid = false → step s = .next s.advance

/-- 10_state.md R22 and 70_reset_and_hazards.md R107 on a step: at a reset edge every bit of state becomes 0, whatever the command
port and `FAULT` hold. That the sizes and the host's later inputs stay is the model's choice (log entries 1, 3 and 6). -/
def Obligations.ResetEdgeClearsTheBlock : Prop :=
  ∀ s : State, s.port.rst = true →
    ∃ t, step s = .next t ∧ (∀ k : Fin 8, t.table[k] = false) ∧ (∀ i : Fin t.params.n, t.gen[i] = false) ∧
      (∀ (i : Fin t.params.r) (j : Fin t.params.c), t.grid[i][j] = false) ∧ t.fault = false ∧ t.fcause = 0 ∧
      t.params = s.params ∧ t.pins = s.pins.tail

/-- Every edge has an effect: a step from any state, also one no run reaches, answers a next state (30_encoding.md R47, R48,
60_exceptions.md R97). -/
def Obligations.EveryStepAnswersANextState : Prop := ∀ s : State, ∃ t, step s = .next t

/-- 00_scope.md R6: no edge changes N, R or C; and an edge consumes exactly its own inputs (20_memory.md R37, log entry 1). -/
def Obligations.StepKeepsTheSizes : Prop :=
  ∀ s t : State, step s = .next t → t.params = s.params ∧ t.pins = s.pins.tail

/-! ## The Rule Decoder -/

/-- 40_rule_decoder.md R55: entry `k` is rule bit `7 - k`, equivalently `(rule // 2^(7-k)) mod 2`. -/
def Obligations.TableEntriesAreTheRuleBits : Prop :=
  ∀ (rule : Rule) (k : Fin 8),
    (decodeRule rule)[k] = rule.getLsbD (7 - k) ∧ (decodeRule rule)[k].toNat = rule.toNat / 2 ^ (7 - k.val) % 2

/-- 40_rule_decoder.md R56: the next state for neighbourhood value `v`, the table entry at index `7 - v`, is bit `v` of the
rule: of the table itself, of the lookup, and of the cell a 1D step looks up. -/
def Obligations.LookupIsTheRuleBit : Prop :=
  (∀ (rule : Rule) (left self right : Cell),
    let v := 4 * left.toNat + 2 * self.toNat + right.toNat
    (decodeRule rule)[7 - v] = rule.getLsbD v ∧ lookup (decodeRule rule) v = rule.getLsbD v) ∧
  (∀ (n : Nat) (rule : Rule) (g : Generation n) (i : Nat) (_ : 1 ≤ i ∧ i + 2 ≤ n),
    (step1d (decodeRule rule) g)[i] = rule.getLsbD (4 * g[i - 1].toNat + 2 * g[i].toNat + g[i + 1].toNat))

/-- 40_rule_decoder.md R57: `encode` is the sum of `T[k] * 2^(7-k)` and the inverse of `decode` on both sides. -/
def Obligations.RulesAndTablesAreInBijection : Prop :=
  (∀ T : Table, (encodeRule T).toNat =
    T[0].toNat * 128 + T[1].toNat * 64 + T[2].toNat * 32 + T[3].toNat * 16 + T[4].toNat * 8 + T[5].toNat * 4 +
      T[6].toNat * 2 + T[7].toNat) ∧
  (∀ rule : Rule, encodeRule (decodeRule rule) = rule) ∧
  (∀ T : Table, decodeRule (encodeRule T) = T) ∧
  Function.Bijective decodeRule

/-- 40_rule_decoder.md R59, last sentence: a decode of an unbounded integer gives no meaning outside [0,255] and the rule's own
table inside it. -/
def Obligations.IntegersOutsideTheRuleRangeAreRefused : Prop :=
  (∀ rule : Int, (rule < 0 ∨ 255 < rule) → decodeRuleInt rule = none) ∧
  (∀ rule : Rule, decodeRuleInt (Int.ofNat rule.toNat) = some (decodeRule rule))

/-- DECODE (40_rule_decoder.md R58): on a block that is not frozen the eight entries become the rule's bits and nothing else
changes. -/
def Obligations.DecodeLoadsTheTable : Prop :=
  ∀ (rule : Rule) (s : State), s.fault = false →
    ∃ T : Table, exec (.decode rule) s = .next { s with table := T } ∧ ∀ k : Fin 8, T[k] = rule.getLsbD (7 - k)

/-! ## The 1D Stepper -/

/-- 41_stepper_1d.md R66: the next generation, cell by cell, of the same length. -/
def Obligations.NextGenerationCellByCell : Prop :=
  ∀ (n : Nat) (T : Table) (g : Generation n),
    (step1d T g).toList.length = n ∧
    ∀ (i : Nat) (_ : i < n),
      (step1d T g)[i] =
        if _ : 1 ≤ i ∧ i ≤ n - 2 then T[7 - (4 * g[i - 1].toNat + 2 * g[i].toNat + g[i + 1].toNat)] else false

/-- 41_stepper_1d.md R64: the boundary cells of the output are 0 whatever the input and the rule, while those of the input are
read as the left neighbour of cell 1 and the right neighbour of cell N-2. -/
def Obligations.BoundaryCellsAreClampedButRead : Prop :=
  ∀ (n : Nat) (rule : Rule) (g : Generation n),
    (∀ _ : 1 ≤ n, (step1d (decodeRule rule) g)[0] = false ∧ (step1d (decodeRule rule) g)[n - 1] = false) ∧
    (∀ _ : 3 ≤ n,
      (step1d (decodeRule rule) g)[1] = rule.getLsbD (4 * g[0].toNat + 2 * g[1].toNat + g[2].toNat) ∧
      (step1d (decodeRule rule) g)[n - 2] =
        rule.getLsbD (4 * g[n - 3].toNat + 2 * g[n - 2].toNat + g[n - 1].toNat))

/-- 41_stepper_1d.md R65: for N = 1 and N = 2 every output cell is 0 whatever the input; for N = 3 index 1 alone is looked up. -/
def Obligations.ShortGenerationsHaveNoInterior : Prop :=
  ∀ T : Table,
    (∀ g : Generation 1, step1d T g = #v[false]) ∧
    (∀ g : Generation 2, step1d T g = #v[false, false]) ∧
    (∀ g : Generation 3, step1d T g = #v[false, lookup T (4 * g[0].toNat + 2 * g[1].toNat + g[2].toNat), false])

/-- Rule 90 gives every interior cell the exclusive or of its two neighbours (95_test_vectors.md S12). -/
def Obligations.RuleNinetyIsExclusiveOr : Prop :=
  ∀ (n : Nat) (g : Generation n) (i : Nat) (_ : 1 ≤ i ∧ i + 2 ≤ n),
    (step1d (decodeRule 90) g)[i] = xor g[i - 1] g[i + 1]

/-- STEP1D (41_stepper_1d.md R68): on a block that is not frozen each interior cell of `GEN` becomes the table entry its old
neighbourhood selects, the others become 0, and nothing else changes. -/
def Obligations.Step1dAdvancesTheGeneration : Prop :=
  ∀ s : State, s.fault = false →
    ∃ g : Generation s.params.n, exec .step1d s = .next { s with gen := g } ∧
      (∀ (i : Nat) (_ : 1 ≤ i ∧ i + 2 ≤ s.params.n),
        g[i] = s.table[7 - (4 * s.gen[i - 1].toNat + 2 * s.gen[i].toNat + s.gen[i + 1].toNat)]) ∧
      ∀ i : Fin s.params.n, (i.val = 0 ∨ i.val + 1 = s.params.n) → g[i] = false

/-- The document's property for rule 0 on the block (41_stepper_1d.md R69, 70 R110): with the table of rule 0, which is the table
after reset, a STEP1D leaves every cell 0. -/
def Obligations.StepWithRuleZeroClearsTheGeneration : Prop :=
  (∀ p : Params, (State.resetWith p).table = decodeRule 0) ∧
  ∀ s : State, s.fault = false → s.table = decodeRule 0 →
    exec .step1d s = .next { s with gen := Vector.replicate s.params.n false }

/-! ## The 2D Stepper -/

/-- 42_stepper_2d.md R73: the block is the set of existing cells at distance at most one, each once, the cell itself among
them, with 9, 6 and 4 cells away from the edges, on one edge and in a corner, and a segment when a dimension is 1. That its cells
exist is said by their types. -/
def Obligations.BlockIsTheClippedNeighbourhood : Prop :=
  ∀ (r c : Nat) (i : Fin r) (j : Fin c),
    (∀ (a : Fin r) (b : Fin c), (a, b) ∈ block i j ↔
      (i.val - 1 ≤ a.val ∧ a.val ≤ min (r - 1) (i.val + 1)) ∧ (j.val - 1 ≤ b.val ∧ b.val ≤ min (c - 1) (j.val + 1))) ∧
    (block i j).Nodup ∧
    (i, j) ∈ block i j ∧
    (1 ≤ i.val → i.val + 2 ≤ r → 1 ≤ j.val → j.val + 2 ≤ c → (block i j).length = 9) ∧
    (2 ≤ r → (i.val = 0 ∨ i.val + 1 = r) → 1 ≤ j.val → j.val + 2 ≤ c → (block i j).length = 6) ∧
    (2 ≤ c → (j.val = 0 ∨ j.val + 1 = c) → 1 ≤ i.val → i.val + 2 ≤ r → (block i j).length = 6) ∧
    (2 ≤ r → 2 ≤ c → (i.val = 0 ∨ i.val + 1 = r) → (j.val = 0 ∨ j.val + 1 = c) → (block i j).length = 4) ∧
    ((r = 1 ∨ c = 1) → (block i j).length ≤ 3) ∧
    (r = 1 → c = 1 → block i j = [(i, j)]) ∧
    (3 ≤ r → i.val = 0 → ∀ (a : Fin r) (b : Fin c), (a, b) ∈ block i j → a.val ≠ r - 1) ∧
    (3 ≤ r → i.val + 1 = r → ∀ (a : Fin r) (b : Fin c), (a, b) ∈ block i j → a.val ≠ 0) ∧
    (3 ≤ c → j.val = 0 → ∀ (a : Fin r) (b : Fin c), (a, b) ∈ block i j → b.val ≠ c - 1) ∧
    (3 ≤ c → j.val + 1 = c → ∀ (a : Fin r) (b : Fin c), (a, b) ∈ block i j → b.val ≠ 0)

/-- 42_stepper_2d.md R74: the count is the block's sum less the cell's own value, which the sum includes; it
is the number of live cells of the block other than the cell, and lies in 0..8. -/
def Obligations.NeighbourCountIsBounded : Prop :=
  ∀ (r c : Nat) (G : Grid r c) (i : Fin r) (j : Fin c),
    G[i][j].toNat ≤ liveSum G (block i j) ∧
    liveSum G (block i j) ≤ 9 ∧
    neighbourCount G i j + G[i][j].toNat = liveSum G (block i j) ∧
    neighbourCount G i j = ((block i j).filter fun ab => decide (ab ≠ (i, j)) && G[ab.1][ab.2]).length ∧
    neighbourCount G i j ≤ 8

/-- 42_stepper_2d.md R79: clipping is the same as padding with dead cells, and a step produces no cell outside the grid. -/
def Obligations.ClippingIsPaddingWithDeadCells : Prop :=
  ∀ (r c : Nat) (G : Grid r c),
    (∀ (i : Fin r) (j : Fin c),
      let a : Int := i.val
      let b : Int := j.val
      neighbourCount G i j =
        (paddedAt G (a - 1) (b - 1)).toNat + (paddedAt G (a - 1) b).toNat + (paddedAt G (a - 1) (b + 1)).toNat +
        (paddedAt G a (b - 1)).toNat + (paddedAt G a (b + 1)).toNat +
        (paddedAt G (a + 1) (b - 1)).toNat + (paddedAt G (a + 1) b).toNat + (paddedAt G (a + 1) (b + 1)).toNat) ∧
    (gridRows (step2d G)).length = r ∧ ∀ row ∈ gridRows (step2d G), row.length = c

/-- 42_stepper_2d.md R76: the next state is 1 exactly when `n == 3 or (c == 1 and n == 2)`. -/
def Obligations.LifeRuleAsOneExpression : Prop :=
  ∀ (cell : Cell) (n : Nat), lifeRule cell n = true ↔ n = 3 ∨ (cell = true ∧ n = 2)

/-- 42_stepper_2d.md R78: the next grid, cell by cell, of the same shape. -/
def Obligations.NextGridCellByCell : Prop :=
  ∀ (r c : Nat) (G : Grid r c),
    (gridRows (step2d G)).length = r ∧ (∀ row ∈ gridRows (step2d G), row.length = c) ∧
    ∀ (i : Fin r) (j : Fin c),
      (step2d G)[i][j] = decide (neighbourCount G i j = 3 ∨ (G[i][j] = true ∧ neighbourCount G i j = 2))

/-- STEP2D (42_stepper_2d.md R80): on a block that is not frozen every cell of `GRID` follows the three sentences of R75 on the
old grid, and nothing else changes. -/
def Obligations.Step2dAdvancesTheGrid : Prop :=
  ∀ s : State, s.fault = false →
    ∃ G : Grid s.params.r s.params.c, exec .step2d s = .next { s with grid := G } ∧
      ∀ (i : Fin s.params.r) (j : Fin s.params.c),
        let n := neighbourCount s.grid i j
        (s.grid[i][j] = true → (n < 2 ∨ n > 3) → G[i][j] = false) ∧
        (s.grid[i][j] = false → n = 3 → G[i][j] = true) ∧
        (¬ (s.grid[i][j] = true ∧ (n < 2 ∨ n > 3)) → ¬ (s.grid[i][j] = false ∧ n = 3) → G[i][j] = s.grid[i][j])

/-- "a fully dead grid stays fully dead after any number of steps" (42_stepper_2d.md R81). -/
def Obligations.DeadGridStaysDead : Prop :=
  ∀ (r c k : Nat) (G : Grid r c), (∀ (i : Fin r) (j : Fin c), G[i][j] = false) →
    ∀ (i : Fin r) (j : Fin c), (step2d^[k] G)[i][j] = false

/-- "A single live cell with no live neighbors dies in one step (isolation rule)" (42_stepper_2d.md R81). -/
def Obligations.LoneLiveCellDies : Prop :=
  ∀ (r c : Nat) (G : Grid r c) (i : Fin r) (j : Fin c), G[i][j] = true →
    (∀ (a : Fin r) (b : Fin c), (a, b) ∈ block i j → (a, b) ≠ (i, j) → G[a][b] = false) →
    (step2d G)[i][j] = false

/-- A 2x2 block of live cells in an otherwise dead grid is a still life, wherever in the grid it lies (42_stepper_2d.md R81, and
R80's corner case of the grid it fills). -/
def Obligations.TwoByTwoBlockIsAStillLife : Prop :=
  ∀ (r c : Nat) (G : Grid r c) (p q : Nat), p + 1 < r → q + 1 < c →
    (∀ (i : Fin r) (j : Fin c), G[i][j] = true ↔ (i.val = p ∨ i.val = p + 1) ∧ (j.val = q ∨ j.val = q + 1)) →
    step2d G = G

/-- 20_memory.md R28: a step does not depend on which way rows or columns are drawn: it commutes with turning the rows over, with
turning the columns over and with exchanging rows and columns. -/
def Obligations.StepIgnoresTheDrawingDirection : Prop :=
  ∀ (r c : Nat) (G : Grid r c),
    (∀ H : Grid r c, (∀ (i : Fin r) (j : Fin c), H[i][j] = G[i.rev][j]) →
      ∀ (i : Fin r) (j : Fin c), (step2d H)[i][j] = (step2d G)[i.rev][j]) ∧
    (∀ H : Grid r c, (∀ (i : Fin r) (j : Fin c), H[i][j] = G[i][j.rev]) →
      ∀ (i : Fin r) (j : Fin c), (step2d H)[i][j] = (step2d G)[i][j.rev]) ∧
    (∀ H : Grid c r, (∀ (i : Fin c) (j : Fin r), H[i][j] = G[j][i]) →
      ∀ (i : Fin c) (j : Fin r), (step2d H)[i][j] = (step2d G)[j][i])

/-! ## Array access and housekeeping -/

/-- NOP (43_array_access.md R85): nothing is read and nothing is written, in every state. -/
def Obligations.NopChangesNothing : Prop := ∀ s : State, exec .nop s = .next s

/-- CLR1D (43_array_access.md R86): every cell of `GEN` becomes 0 and nothing else changes. -/
def Obligations.Clr1dClearsTheGeneration : Prop :=
  ∀ s : State, s.fault = false →
    ∃ g : Generation s.params.n, exec .clr1d s = .next { s with gen := g } ∧ ∀ i : Fin s.params.n, g[i] = false

/-- CLR2D (43_array_access.md R88): every cell of `GRID` becomes 0 and nothing else changes. -/
def Obligations.Clr2dClearsTheGrid : Prop :=
  ∀ s : State, s.fault = false →
    ∃ G : Grid s.params.r s.params.c, exec .clr2d s = .next { s with grid := G } ∧
      ∀ (i : Fin s.params.r) (j : Fin s.params.c), G[i][j] = false

/-- WR1D in range (43_array_access.md R87): the one cell `GEN[X]`, a boundary cell as well, becomes `D[0]`, every other cell
keeps its value, and nothing else changes. -/
def Obligations.Wr1dWritesOneCell : Prop :=
  ∀ (x : Index) (v : Cell) (s : State), s.fault = false → x.toNat < s.params.n →
    ∃ g : Generation s.params.n, exec (.wr1d x v) s = .next { s with gen := g } ∧
      ∀ i : Fin s.params.n, g[i] = if i.val = x.toNat then v else s.gen[i]

/-- WR2D in range (43_array_access.md R89): the one cell `GRID[Y][X]` becomes `D[0]`, every other cell keeps its value, and
nothing else changes. -/
def Obligations.Wr2dWritesOneCell : Prop :=
  ∀ (y x : Index) (v : Cell) (s : State), s.fault = false → y.toNat < s.params.r → x.toNat < s.params.c →
    ∃ G : Grid s.params.r s.params.c, exec (.wr2d y x v) s = .next { s with grid := G } ∧
      ∀ (i : Fin s.params.r) (j : Fin s.params.c),
        G[i][j] = if i.val = y.toNat ∧ j.val = x.toNat then v else s.grid[i][j]

/-- 20_memory.md R30 on the two writing commands: an index outside its range faults with cause 3 and writes nothing, row and
column each against its own bound. -/
def Obligations.WritesOutOfRangeFaultAndWriteNothing : Prop :=
  (∀ (x : Index) (v : Cell) (s : State), s.fault = false → s.params.n ≤ x.toNat →
    exec (.wr1d x v) s = .next { s with fault := true, fcause := 3 }) ∧
  (∀ (y x : Index) (v : Cell) (s : State), s.fault = false → (s.params.r ≤ y.toNat ∨ s.params.c ≤ x.toNat) →
    exec (.wr2d y x v) s = .next { s with fault := true, fcause := 3 })

/-- A command of a frozen block is ignored (60_exceptions.md R99, and the Faults line of each command's rule). -/
def Obligations.FrozenBlockIgnoresEveryCommand : Prop :=
  ∀ (i : Instr) (s : State), s.fault = true → exec i s = .next s

/-- The frames of 20_memory.md R39, for every command and every next state, one of fault entry as well: which command may write
which register, and that only fault entry writes `FAULT` and `FCAUSE`. -/
def Obligations.CommandsWriteOnlyTheirOwnArray : Prop :=
  ∀ (i : Instr) (s t : State), exec i s = .next t →
    t.params = s.params ∧ t.pins = s.pins ∧
    (t.table ≠ s.table → ∃ rule, i = .decode rule) ∧
    (t.gen.toList ≠ s.gen.toList → i = .clr1d ∨ i = .step1d ∨ ∃ x v, i = .wr1d x v) ∧
    (gridRows t.grid ≠ gridRows s.grid → i = .clr2d ∨ i = .step2d ∨ ∃ y x v, i = .wr2d y x v) ∧
    ((t.fault ≠ s.fault ∨ t.fcause ≠ s.fcause) →
      i.wellFormed s.params = false ∧ t = { s with fault := true, fcause := 3 })

/-- 20_memory.md R33: writing the same value twice leaves the same state: every command but the two steps, done twice, is as done
once, a faulting one as well. -/
def Obligations.WritesAreIdempotent : Prop :=
  ∀ (i : Instr) (s t : State), i ≠ .step1d → i ≠ .step2d → exec i s = .next t → exec i t = .next t

/-! ## Faults -/

/-- 60_exceptions.md R102: the three units raise nothing: DECODE of every rule, STEP1D on every table and generation and STEP2D on
every grid complete and leave `FAULT` and `FCAUSE` as they were, in every state and for all sizes. That a rule, a cell or an array
of another shape cannot be given to them is said by the types of the state. -/
def Obligations.UnitsRaiseNoFault : Prop :=
  ∀ (s : State) (i : Instr), ((∃ rule, i = .decode rule) ∨ i = .step1d ∨ i = .step2d) →
    ∃ t, exec i s = .next t ∧ t.fault = s.fault ∧ t.fcause = s.fcause

/-- 60_exceptions.md R98: fault entry sets `FAULT` and `FCAUSE` (to the word's own cause, 1, 2 or 3) and writes nothing else. -/
def Obligations.FaultEntryIsPrecise : Prop :=
  ∀ (s t : State) (e : PortIn), s.clockEdge e = .next t → s.fault = false → t.fault = true →
    t = { s with fault := true, fcause := t.fcause } ∧
    ∃ c, classify s.params e.cmd = .fault c ∧ t.fcause = c.code ∧ (t.fcause = 1 ∨ t.fcause = 2 ∨ t.fcause = 3)

/-- 60_exceptions.md R100: no command clears `FAULT`; only reset leaves the frozen state, and reset clears `TABLE`, `GEN` and
`GRID` with it; a frozen block takes no second fault. -/
def Obligations.OnlyResetLeavesTheFrozenState : Prop :=
  ∀ (s t : State) (e : PortIn), s.clockEdge e = .next t → s.fault = true →
    (t.fault = false ↔ e.rst = true) ∧
    (t.fault = false → (∀ k : Fin 8, t.table[k] = false) ∧ (∀ i : Fin t.params.n, t.gen[i] = false) ∧
      ∀ (i : Fin t.params.r) (j : Fin t.params.c), t.grid[i][j] = false) ∧
    (t.fault = true → t = s)

/-- 60_exceptions.md R99: while `FAULT` = 1 nothing changes for any number of edges without reset, whatever `cmd_valid` and `cmd`
are; `FCAUSE` keeps the cause of the first fault. The schedule of coming edges is the model's (log entries 1 and 2). -/
def Obligations.FrozenBlockStaysFrozenUntilReset : Prop :=
  ∀ (k : Nat) (s : State), s.fault = true → s.NoResetScheduled →
    core.run k s = .next { s with pins := s.pins.drop k }

/-! ## Whole-machine rules -/

/-- 10_state.md R10, column "written by", with R22 and R15: which events of an edge can change which register. -/
def Obligations.RegistersAreWrittenOnlyByTheirEvents : Prop :=
  ∀ s t : State, step s = .next t → s.port.rst = false →
    (t.table ≠ s.table → s.TakesCommand ∧ ∃ rule, decodeWord s.port.cmd = .instr (.decode rule)) ∧
    (t.gen.toList ≠ s.gen.toList → s.TakesCommand ∧
      (decodeWord s.port.cmd = .instr .clr1d ∨ decodeWord s.port.cmd = .instr .step1d ∨
        ∃ x v, decodeWord s.port.cmd = .instr (.wr1d x v))) ∧
    (gridRows t.grid ≠ gridRows s.grid → s.TakesCommand ∧
      (decodeWord s.port.cmd = .instr .clr2d ∨ decodeWord s.port.cmd = .instr .step2d ∨
        ∃ y x v, decodeWord s.port.cmd = .instr (.wr2d y x v))) ∧
    ((t.fault ≠ s.fault ∨ t.fcause ≠ s.fcause) → s.TakesCommand ∧ ∃ c, classify s.params s.port.cmd = .fault c ∧
      t.fault = true ∧ t.fcause = c.code)

/-- 00_scope.md R3 as noninterference: with another grid in its place, an edge leaves the same but for the grid, so the 1D engine,
the sizes and the fault status do not depend on it; and with another table and generation it leaves the same but for these. -/
def Obligations.EnginesDoNotReadEachOther : Prop :=
  ∀ s t : State, step s = .next t →
    (∀ G : Grid s.params.r s.params.c,
      ∃ G' : Grid t.params.r t.params.c, step { s with grid := G } = .next { t with grid := G' }) ∧
    (∀ (T : Table) (g : Generation s.params.n),
      ∃ (T' : Table) (g' : Generation t.params.n),
        step { s with table := T, gen := g } = .next { t with table := T', gen := g' })

/-- "any sequence of 1D-engine commands leaves `GRID` unchanged and any sequence of 2D-engine commands leaves `TABLE` and `GEN`
unchanged" (20_memory.md R39), for any number of edges from any state. -/
def Obligations.EngineCommandsLeaveTheOtherEngine : Prop :=
  ∀ (k : Nat) (s t : State), s.NoResetScheduled → core.run k s = .next t →
    t.params = s.params ∧
    (s.SchedulesOnly engine1D → gridRows t.grid = gridRows s.grid) ∧
    (s.SchedulesOnly engine2D → t.table = s.table ∧ t.gen.toList = s.gen.toList)

/-- The invariant that every step keeps, from every state that has it: legal sizes (00_scope.md R6), and `FCAUSE` = 0 exactly when
`FAULT` = 0 (10_state.md R16); and the arrays keep the shapes they had (R24). -/
def Obligations.EveryStepKeepsTheInvariant : Prop :=
  ∀ s t : State, s.Inv → step s = .next t → t.Inv ∧ t.HasShape s.params

/-- The invariant holds after reset, for the default sizes and for every legal ones, the arrays in the shapes of the sizes. The
default sizes are the model's choice (log entry 3). -/
def Obligations.ResetMeetsTheInvariant : Prop :=
  State.reset.Inv ∧ ∀ p : Params, p.Legal → (State.resetWith p).Inv ∧ (State.resetWith p).HasShape p

/-- 10_state.md R22: after a reset every bit of state is 0, for any sizes, those of `State.reset` among them; the table is that of
rule 0, and STEP1D is legal straight after reset and then looks up all-zero entries. -/
def Obligations.EveryBitIsZeroAfterReset : Prop :=
  ∀ p : Params,
    (∀ k : Fin 8, (State.resetWith p).table[k] = false) ∧ (∀ i : Fin p.n, (State.resetWith p).gen[i] = false) ∧
    (∀ (i : Fin p.r) (j : Fin p.c), (State.resetWith p).grid[i][j] = false) ∧ (State.resetWith p).fault = false ∧
    (State.resetWith p).fcause = 0 ∧ State.reset = State.resetWith State.reset.params ∧
    (State.resetWith p).table = decodeRule 0 ∧
    exec .step1d (State.resetWith p) = .next (State.resetWith p)

/-! ## What the host sees -/

/-- 10_state.md R21: each bit of each output port is the state bit the table names, and after `DECODE rule` the port `table_o`,
read as a number, is the rule with its eight bits reversed. -/
def Obligations.PortsShowTheState : Prop :=
  (∀ (s : State) (k : Fin 8), s.tableO.getLsbD k = s.table[k]) ∧
  (∀ (s : State) (i : Fin s.params.n), s.genO.getLsbD i = s.gen[i]) ∧
  (∀ (s : State) (i : Fin s.params.r) (j : Fin s.params.c), s.gridO.getLsbD (i.val * s.params.c + j.val) = s.grid[i][j]) ∧
  (∀ s : State, s.faultO = BitVec.ofBool s.fault ∧ s.fcauseO = s.fcause) ∧
  (∀ (s t : State) (rule : Rule), s.fault = false → exec (.decode rule) s = .next t → t.tableO = rule.reverse)

/-- 70_reset_and_hazards.md R117: a run that ends with `FAULT` = 1 has no result, one that ends with `FAULT` = 0 has the three
arrays. -/
def Obligations.FailedRunHasNoResult : Prop :=
  ∀ s : State, (s.fault = true → s.result = none) ∧ (s.fault = false → s.result = some (s.table, s.gen, s.grid))
end

