-- ==== Sys2Proof/Laws/Cells.lean ====
section
/-! SUPPORT. Reading after writing for the cell arrays, what a step function gives at a cell, and the shapes of arrays. -/

namespace Sys2Proof.Machine

/-! ## One cell -/

@[simp] theorem entryAt_eq {α : Type} {n : Nat} (a : Vector α n) (i : Fin n) : entryAt a i = a[i.val] := by
  simp [entryAt]

@[simp] theorem gridCellAt_eq {r c : Nat} (G : Grid r c) (i : Fin r) (j : Fin c) : gridCellAt G i j = G[i.val][j.val] := by
  simp [gridCellAt]

/-- Reading a generation after a write. -/
theorem getElem_setCell {n : Nat} (g : Generation n) (i : Fin n) (v : Cell) (k : Fin n) :
    (setCell g i v)[k] = if k = i then v else g[k] := by
  simp only [setCell, Fin.getElem_fin, Vector.getElem_set, Fin.ext_iff, eq_comm]

/-- Reading a grid after a write. -/
theorem getElem_setGridCell {r c : Nat} (G : Grid r c) (i : Fin r) (j : Fin c) (v : Cell) (a : Fin r) (b : Fin c) :
    (setGridCell G i j v)[a][b] = if a = i ∧ b = j then v else G[a][b] := by
  simp only [setGridCell, Fin.getElem_fin, Vector.getElem_set]
  by_cases ha : a = i
  · subst ha
    simp only [if_true, Vector.getElem_set, Fin.ext_iff, true_and, eq_comm]
  · have hne : ¬ i.val = a.val := fun h => ha (Fin.ext h.symm)
    simp [ha, hne]

/-- Writing a cell of a generation twice is writing it once. -/
@[simp] theorem setCell_setCell {n : Nat} (g : Generation n) (i : Fin n) (v : Cell) :
    setCell (setCell g i v) i v = setCell g i v := by
  simp [setCell]

/-- Writing a cell of a grid twice is writing it once. -/
@[simp] theorem setGridCell_setGridCell {r c : Nat} (G : Grid r c) (i : Fin r) (j : Fin c) (v : Cell) :
    setGridCell (setGridCell G i j v) i j v = setGridCell G i j v := by
  simp [setGridCell]

/-! ## The step functions -/

/-- `v` is at most 7 (41_stepper_1d.md R62). -/
theorem neighbourhood_le {n : Nat} (g : Generation n) (i : Nat) (h : Interior n i) : neighbourhood g i h ≤ 7 := by
  have le (b : Bool) : b.toNat ≤ 1 := by cases b <;> simp
  have := le g[i - 1]; have := le g[i]; have := le g[i + 1]
  simp only [neighbourhood]; omega

/-- An interior cell is looked up. -/
theorem nextCell1d_interior {n i : Nat} (h : Interior n i) (T : Table) (g : Generation n) :
    nextCell1d T g i = lookup T (neighbourhood g i h) := dif_pos h

/-- A boundary cell is 0. -/
theorem nextCell1d_boundary {n i : Nat} (h : ¬ Interior n i) (T : Table) (g : Generation n) : nextCell1d T g i = false :=
  dif_neg h

/-- A cell after a 1D step. -/
@[simp] theorem getElem_step1d {n i : Nat} (h : i < n) (T : Table) (g : Generation n) :
    (step1d T g)[i] = nextCell1d T g i := by
  simp [step1d]

/-- A cell after a 2D step. -/
@[simp] theorem getElem_step2d {r c i j : Nat} (hi : i < r) (hj : j < c) (G : Grid r c) :
    (step2d G)[i][j] = nextCell2d G ⟨i, hi⟩ ⟨j, hj⟩ := by
  simp [step2d]

/-- The block of a cell holds exactly the cells whose row and column are the cell's own or next to it. -/
theorem mem_clipped {m : Nat} (i a : Fin m) : a ∈ clipped i ↔ i.val ≤ a.val + 1 ∧ a.val ≤ i.val + 1 := by
  have := i.isLt; have := a.isLt
  simp only [clipped]
  split <;> split <;> simp [Fin.ext_iff] <;> omega

/-- A cell is in the block of another exactly if both its coordinates are at distance at most one. -/
theorem mem_block {r c : Nat} (i a : Fin r) (j b : Fin c) :
    (a, b) ∈ block i j ↔ (i.val ≤ a.val + 1 ∧ a.val ≤ i.val + 1) ∧ j.val ≤ b.val + 1 ∧ b.val ≤ j.val + 1 := by
  simp [block, mem_clipped]

/-! ## Shapes (10_state.md R24) -/

@[simp] theorem length_gridRows {r c : Nat} (G : Grid r c) : (gridRows G).length = r := by simp [gridRows]

theorem length_of_mem_gridRows {r c : Nat} {G : Grid r c} {row : List Cell} (h : row ∈ gridRows G) : row.length = c := by
  simp only [gridRows, List.mem_map] at h
  obtain ⟨v, -, rfl⟩ := h
  simp

/-- Every state has the shape of its own sizes. -/
theorem State.hasShape (s : State) : s.HasShape s.params :=
  ⟨by simp, length_gridRows _, fun _ h => length_of_mem_gridRows h⟩

end Sys2Proof.Machine
end

