-- ==== Sys2Proof/Laws/State.lean ====
section
/-! SUPPORT. What each named update of the state leaves in each field. -/

namespace Sys2Proof.Machine

/-! ## `State.setTable` -/

@[simp] theorem State.setTable_params (s : State) (T : Table) : (s.setTable T).params = s.params := rfl
@[simp] theorem State.setTable_pins (s : State) (T : Table) : (s.setTable T).pins = s.pins := rfl
@[simp] theorem State.setTable_table (s : State) (T : Table) : (s.setTable T).table = T := rfl
@[simp] theorem State.setTable_gen (s : State) (T : Table) : (s.setTable T).gen = s.gen := rfl
@[simp] theorem State.setTable_grid (s : State) (T : Table) : (s.setTable T).grid = s.grid := rfl
@[simp] theorem State.setTable_fault (s : State) (T : Table) : (s.setTable T).fault = s.fault := rfl
@[simp] theorem State.setTable_fcause (s : State) (T : Table) : (s.setTable T).fcause = s.fcause := rfl

/-! ## `State.setGen` -/

@[simp] theorem State.setGen_params (s : State) (g : Generation s.params.n) : (s.setGen g).params = s.params := rfl
@[simp] theorem State.setGen_pins (s : State) (g : Generation s.params.n) : (s.setGen g).pins = s.pins := rfl
@[simp] theorem State.setGen_table (s : State) (g : Generation s.params.n) : (s.setGen g).table = s.table := rfl
@[simp] theorem State.setGen_gen (s : State) (g : Generation s.params.n) : (s.setGen g).gen = g := rfl
@[simp] theorem State.setGen_grid (s : State) (g : Generation s.params.n) : (s.setGen g).grid = s.grid := rfl
@[simp] theorem State.setGen_fault (s : State) (g : Generation s.params.n) : (s.setGen g).fault = s.fault := rfl
@[simp] theorem State.setGen_fcause (s : State) (g : Generation s.params.n) : (s.setGen g).fcause = s.fcause := rfl

/-! ## `State.setGrid` -/

@[simp] theorem State.setGrid_params (s : State) (G : Grid s.params.r s.params.c) : (s.setGrid G).params = s.params := rfl
@[simp] theorem State.setGrid_pins (s : State) (G : Grid s.params.r s.params.c) : (s.setGrid G).pins = s.pins := rfl
@[simp] theorem State.setGrid_table (s : State) (G : Grid s.params.r s.params.c) : (s.setGrid G).table = s.table := rfl
@[simp] theorem State.setGrid_gen (s : State) (G : Grid s.params.r s.params.c) : (s.setGrid G).gen = s.gen := rfl
@[simp] theorem State.setGrid_grid (s : State) (G : Grid s.params.r s.params.c) : (s.setGrid G).grid = G := rfl
@[simp] theorem State.setGrid_fault (s : State) (G : Grid s.params.r s.params.c) : (s.setGrid G).fault = s.fault := rfl
@[simp] theorem State.setGrid_fcause (s : State) (G : Grid s.params.r s.params.c) : (s.setGrid G).fcause = s.fcause := rfl

/-! ## `State.writeGen` -/

@[simp] theorem State.writeGen_params (s : State) (i : Fin s.params.n) (v : Cell) : (s.writeGen i v).params = s.params := rfl
@[simp] theorem State.writeGen_pins (s : State) (i : Fin s.params.n) (v : Cell) : (s.writeGen i v).pins = s.pins := rfl
@[simp] theorem State.writeGen_table (s : State) (i : Fin s.params.n) (v : Cell) : (s.writeGen i v).table = s.table := rfl
@[simp] theorem State.writeGen_gen (s : State) (i : Fin s.params.n) (v : Cell) : (s.writeGen i v).gen = setCell s.gen i v := rfl
@[simp] theorem State.writeGen_grid (s : State) (i : Fin s.params.n) (v : Cell) : (s.writeGen i v).grid = s.grid := rfl
@[simp] theorem State.writeGen_fault (s : State) (i : Fin s.params.n) (v : Cell) : (s.writeGen i v).fault = s.fault := rfl
@[simp] theorem State.writeGen_fcause (s : State) (i : Fin s.params.n) (v : Cell) : (s.writeGen i v).fcause = s.fcause := rfl

/-! ## `State.writeGrid` -/

@[simp] theorem State.writeGrid_params (s : State) (ij : Fin s.params.r × Fin s.params.c) (v : Cell) :
    (s.writeGrid ij v).params = s.params := rfl
@[simp] theorem State.writeGrid_pins (s : State) (ij : Fin s.params.r × Fin s.params.c) (v : Cell) :
    (s.writeGrid ij v).pins = s.pins := rfl
@[simp] theorem State.writeGrid_table (s : State) (ij : Fin s.params.r × Fin s.params.c) (v : Cell) :
    (s.writeGrid ij v).table = s.table := rfl
@[simp] theorem State.writeGrid_gen (s : State) (ij : Fin s.params.r × Fin s.params.c) (v : Cell) :
    (s.writeGrid ij v).gen = s.gen := rfl
@[simp] theorem State.writeGrid_grid (s : State) (ij : Fin s.params.r × Fin s.params.c) (v : Cell) :
    (s.writeGrid ij v).grid = setGridCell s.grid ij.1 ij.2 v := rfl
@[simp] theorem State.writeGrid_fault (s : State) (ij : Fin s.params.r × Fin s.params.c) (v : Cell) :
    (s.writeGrid ij v).fault = s.fault := rfl
@[simp] theorem State.writeGrid_fcause (s : State) (ij : Fin s.params.r × Fin s.params.c) (v : Cell) :
    (s.writeGrid ij v).fcause = s.fcause := rfl

/-! ## `State.clearGen` -/

@[simp] theorem State.clearGen_params (s : State) : s.clearGen.params = s.params := rfl
@[simp] theorem State.clearGen_pins (s : State) : s.clearGen.pins = s.pins := rfl
@[simp] theorem State.clearGen_table (s : State) : s.clearGen.table = s.table := rfl
@[simp] theorem State.clearGen_gen (s : State) : s.clearGen.gen = Vector.replicate s.params.n false := rfl
@[simp] theorem State.clearGen_grid (s : State) : s.clearGen.grid = s.grid := rfl
@[simp] theorem State.clearGen_fault (s : State) : s.clearGen.fault = s.fault := rfl
@[simp] theorem State.clearGen_fcause (s : State) : s.clearGen.fcause = s.fcause := rfl

/-! ## `State.clearGrid` -/

@[simp] theorem State.clearGrid_params (s : State) : s.clearGrid.params = s.params := rfl
@[simp] theorem State.clearGrid_pins (s : State) : s.clearGrid.pins = s.pins := rfl
@[simp] theorem State.clearGrid_table (s : State) : s.clearGrid.table = s.table := rfl
@[simp] theorem State.clearGrid_gen (s : State) : s.clearGrid.gen = s.gen := rfl
@[simp] theorem State.clearGrid_grid (s : State) :
    s.clearGrid.grid = Vector.replicate s.params.r (Vector.replicate s.params.c false) := rfl
@[simp] theorem State.clearGrid_fault (s : State) : s.clearGrid.fault = s.fault := rfl
@[simp] theorem State.clearGrid_fcause (s : State) : s.clearGrid.fcause = s.fcause := rfl

/-! ## `State.advance` -/

@[simp] theorem State.advance_params (s : State) : s.advance.params = s.params := rfl
@[simp] theorem State.advance_pins (s : State) : s.advance.pins = s.pins.tail := rfl
@[simp] theorem State.advance_table (s : State) : s.advance.table = s.table := rfl
@[simp] theorem State.advance_gen (s : State) : s.advance.gen = s.gen := rfl
@[simp] theorem State.advance_grid (s : State) : s.advance.grid = s.grid := rfl
@[simp] theorem State.advance_fault (s : State) : s.advance.fault = s.fault := rfl
@[simp] theorem State.advance_fcause (s : State) : s.advance.fcause = s.fcause := rfl

/-! ## `State.schedule` -/

@[simp] theorem State.schedule_params (s : State) (es : List PortIn) : (s.schedule es).params = s.params := rfl
@[simp] theorem State.schedule_pins (s : State) (es : List PortIn) : (s.schedule es).pins = es ++ s.pins := rfl
@[simp] theorem State.schedule_table (s : State) (es : List PortIn) : (s.schedule es).table = s.table := rfl
@[simp] theorem State.schedule_gen (s : State) (es : List PortIn) : (s.schedule es).gen = s.gen := rfl
@[simp] theorem State.schedule_grid (s : State) (es : List PortIn) : (s.schedule es).grid = s.grid := rfl
@[simp] theorem State.schedule_fault (s : State) (es : List PortIn) : (s.schedule es).fault = s.fault := rfl
@[simp] theorem State.schedule_fcause (s : State) (es : List PortIn) : (s.schedule es).fcause = s.fcause := rfl

/-! ## `State.enterFault` -/

@[simp] theorem State.enterFault_params (s : State) (c : Cause) : (s.enterFault c).params = s.params := rfl
@[simp] theorem State.enterFault_pins (s : State) (c : Cause) : (s.enterFault c).pins = s.pins := rfl
@[simp] theorem State.enterFault_table (s : State) (c : Cause) : (s.enterFault c).table = s.table := rfl
@[simp] theorem State.enterFault_gen (s : State) (c : Cause) : (s.enterFault c).gen = s.gen := rfl
@[simp] theorem State.enterFault_grid (s : State) (c : Cause) : (s.enterFault c).grid = s.grid := rfl
@[simp] theorem State.enterFault_fault (s : State) (c : Cause) : (s.enterFault c).fault = true := rfl
@[simp] theorem State.enterFault_fcause (s : State) (c : Cause) : (s.enterFault c).fcause = c.code := rfl

/-! ## `State.hardReset` -/

@[simp] theorem State.hardReset_params (s : State) : s.hardReset.params = s.params := rfl
@[simp] theorem State.hardReset_pins (s : State) : s.hardReset.pins = s.pins := rfl
@[simp] theorem State.hardReset_table (s : State) :
    s.hardReset.table = #v[false, false, false, false, false, false, false, false] := rfl
@[simp] theorem State.hardReset_gen (s : State) : s.hardReset.gen = Vector.replicate s.params.n false := rfl
@[simp] theorem State.hardReset_grid (s : State) :
    s.hardReset.grid = Vector.replicate s.params.r (Vector.replicate s.params.c false) := rfl
@[simp] theorem State.hardReset_fault (s : State) : s.hardReset.fault = false := rfl
@[simp] theorem State.hardReset_fcause (s : State) : s.hardReset.fcause = 0 := rfl

end Sys2Proof.Machine
end

