-- ==== Sys2Proof/Laws/Ops.lean ====
section
/-! SUPPORT. What each shared operation can answer, once, so that a proof cites it and does not unfold it. -/

namespace Sys2Proof.Machine

/-- A frozen block ignores the command. -/
theorem unlessFrozen_of_fault {s : State} (h : s.fault = true) (o : Host.Outcome State Fault Refusal) :
    s.unlessFrozen o = .next s := by
  simp [State.unlessFrozen, State.frozen, h]

/-- A block that is not frozen does what the command says. -/
theorem unlessFrozen_of_running {s : State} (h : s.fault = false) (o : Host.Outcome State Fault Refusal) :
    s.unlessFrozen o = o := by
  simp [State.unlessFrozen, State.frozen, h]

/-- Everything `unlessFrozen` can answer. -/
theorem unlessFrozen_cases {s t : State} {o : Host.Outcome State Fault Refusal} (h : s.unlessFrozen o = .next t) :
    (s.fault = true ∧ t = s) ∨ (s.fault = false ∧ o = .next t) := by
  cases hf : s.fault
  · exact .inr ⟨rfl, by rwa [unlessFrozen_of_running hf] at h⟩
  · rw [unlessFrozen_of_fault hf] at h
    exact .inl ⟨rfl, by injection h with h; exact h.symm⟩

/-- An index operand below the bound names the cell of its own number. -/
theorem cellNamed?_of_lt {n : Nat} {x : Index} (h : x.toNat < n) : cellNamed? n x = some ⟨x.toNat, h⟩ := dif_pos h

/-- An index operand at or above the bound names no cell. -/
theorem cellNamed?_of_le {n : Nat} {x : Index} (h : n ≤ x.toNat) : cellNamed? n x = none := dif_neg (Nat.not_lt.2 h)

theorem genCell?_of_lt {s : State} {x : Index} (h : x.toNat < s.params.n) : s.genCell? x = some ⟨x.toNat, h⟩ :=
  cellNamed?_of_lt h

theorem genCell?_of_le {s : State} {x : Index} (h : s.params.n ≤ x.toNat) : s.genCell? x = none := cellNamed?_of_le h

theorem gridCell?_of_lt {s : State} {y x : Index} (hy : y.toNat < s.params.r) (hx : x.toNat < s.params.c) :
    s.gridCell? y x = some (⟨y.toNat, hy⟩, ⟨x.toNat, hx⟩) := by
  simp only [State.gridCell?, cellNamed?_of_lt hy, cellNamed?_of_lt hx]

theorem gridCell?_of_le {s : State} {y x : Index} (h : s.params.r ≤ y.toNat ∨ s.params.c ≤ x.toNat) :
    s.gridCell? y x = none := by
  unfold State.gridCell?
  rcases h with h | h
  · rw [cellNamed?_of_le h]
  · rw [cellNamed?_of_le (x := x) h]
    cases cellNamed? s.params.r y <;> rfl

@[simp] theorem onCell_some {α : Type} (s : State) (i : α) (write : α → State) :
    s.onCell (some i) write = .next (write i) := rfl

@[simp] theorem onCell_none {α : Type} (s : State) (write : α → State) :
    s.onCell none write = .next (s.enterFault .indexOutOfRange) := rfl

/-- A reset edge resets whatever else stands on the ports. -/
theorem clockEdge_rst {e : PortIn} (s : State) (h : e.rst = true) : s.clockEdge e = .next s.hardReset := by
  simp [State.clockEdge, h]

/-- A frozen block ignores an edge without reset. -/
theorem clockEdge_frozen {s : State} {e : PortIn} (hr : e.rst = false) (hf : s.fault = true) :
    s.clockEdge e = .next s := by
  simp [State.clockEdge, State.frozen, hr, hf]

/-- An edge without a command changes nothing. -/
theorem clockEdge_idle {s : State} {e : PortIn} (hr : e.rst = false) (hv : e.cmdValid = false) :
    s.clockEdge e = .next s := by
  simp [State.clockEdge, hr, hv]

/-- An edge with a command runs its word. -/
theorem clockEdge_command {s : State} {e : PortIn} (hr : e.rst = false) (hf : s.fault = false) (hv : e.cmdValid = true) :
    s.clockEdge e = s.runWord e.cmd := by
  simp [State.clockEdge, State.frozen, hr, hf, hv]

end Sys2Proof.Machine
end

