-- ==== Sys2Proof/Laws/Words.lean ====
section
/-! SUPPORT. The fields of a packed word, and that a word is determined by its fields. -/

namespace Sys2Proof

theorem toNat_packFields (op : BitVec 4) (y x : Index) (d : BitVec 8) :
    (packFields op y x d).toNat = op.toNat * 2 ^ 28 + y.toNat * 2 ^ 18 + x.toNat * 2 ^ 8 + d.toNat := by
  have := op.isLt; have := y.isLt; have := x.isLt; have := d.isLt
  simp only [packFields, BitVec.toNat_append]
  rw [← Nat.shiftLeft_add_eq_or_of_lt (by omega), ← Nat.shiftLeft_add_eq_or_of_lt (by omega),
    ← Nat.shiftLeft_add_eq_or_of_lt (by omega)]
  simp only [Nat.shiftLeft_eq]
  omega

@[simp] theorem opField_packFields (op : BitVec 4) (y x : Index) (d : BitVec 8) : opField (packFields op y x d) = op := by
  have := op.isLt; have := y.isLt; have := x.isLt; have := d.isLt
  apply BitVec.eq_of_toNat_eq
  simp only [opField, BitVec.extractLsb'_toNat, toNat_packFields, Nat.shiftRight_eq_div_pow]
  omega

@[simp] theorem yField_packFields (op : BitVec 4) (y x : Index) (d : BitVec 8) : yField (packFields op y x d) = y := by
  have := op.isLt; have := y.isLt; have := x.isLt; have := d.isLt
  apply BitVec.eq_of_toNat_eq
  simp only [yField, BitVec.extractLsb'_toNat, toNat_packFields, Nat.shiftRight_eq_div_pow]
  omega

@[simp] theorem xField_packFields (op : BitVec 4) (y x : Index) (d : BitVec 8) : xField (packFields op y x d) = x := by
  have := op.isLt; have := y.isLt; have := x.isLt; have := d.isLt
  apply BitVec.eq_of_toNat_eq
  simp only [xField, BitVec.extractLsb'_toNat, toNat_packFields, Nat.shiftRight_eq_div_pow]
  omega

@[simp] theorem dField_packFields (op : BitVec 4) (y x : Index) (d : BitVec 8) : dField (packFields op y x d) = d := by
  have := op.isLt; have := y.isLt; have := x.isLt; have := d.isLt
  apply BitVec.eq_of_toNat_eq
  simp only [dField, BitVec.extractLsb'_toNat, toNat_packFields, Nat.shiftRight_eq_div_pow]
  omega

/-- A word with the fields of another packed again is the other word. -/
theorem packFields_fields (w : Word) : packFields (opField w) (yField w) (xField w) (dField w) = w := by
  have := w.isLt
  apply BitVec.eq_of_toNat_eq
  simp only [toNat_packFields, opField, yField, xField, dField, BitVec.extractLsb'_toNat, Nat.shiftRight_eq_div_pow]
  omega

/-- Two words with equal fields are equal. -/
theorem word_ext {a b : Word} (hop : opField a = opField b) (hy : yField a = yField b) (hx : xField a = xField b)
    (hd : dField a = dField b) : a = b := by
  rw [← packFields_fields a, ← packFields_fields b, hop, hy, hx, hd]

/-- The row found by its number is the row with that number. -/
theorem ofCode_eq_some_iff (b : BitVec 4) (o : Opcode) : Opcode.ofCode b = some o ↔ o.code = b := by
  revert b
  cases o <;> decide

/-- No row has a number 8 or more, and every smaller number has one (30_encoding.md R43). -/
theorem ofCode_eq_none_iff (b : BitVec 4) : Opcode.ofCode b = none ↔ 8 ≤ b.toNat := by
  revert b
  decide

/-- A cell value as the field `D` is 0 or 1. -/
theorem cellField_lt (v : Cell) : (cellField v).toNat < 2 := by cases v <;> decide

/-- A cell value comes back from the field `D`. -/
theorem getLsbD_cellField (v : Cell) : (cellField v).getLsbD 0 = v := by cases v <;> decide

end Sys2Proof
end

