-- ==== Sys2Proof/Laws/PerInstr.lean ====
section
/-! SUPPORT. A statement for every command, one lemma per constructor: the encoder writes the fixed bits of the row. -/

namespace Sys2Proof.Laws

/-- The encoder's word has the command's own opcode in `OP` (30_encoding.md R43). -/
def EncodesItsOpcode.Statement (i : Instr) : Prop := opField (encode i) = i.opcode.code

theorem EncodesItsOpcode.nop : EncodesItsOpcode.Statement .nop := opField_packFields ..
theorem EncodesItsOpcode.decode (rule : Rule) : EncodesItsOpcode.Statement (.decode rule) := opField_packFields ..
theorem EncodesItsOpcode.clr1d : EncodesItsOpcode.Statement .clr1d := opField_packFields ..
theorem EncodesItsOpcode.wr1d (x : Index) (v : Cell) : EncodesItsOpcode.Statement (.wr1d x v) := opField_packFields ..
theorem EncodesItsOpcode.step1d : EncodesItsOpcode.Statement .step1d := opField_packFields ..
theorem EncodesItsOpcode.clr2d : EncodesItsOpcode.Statement .clr2d := opField_packFields ..
theorem EncodesItsOpcode.wr2d (y x : Index) (v : Cell) : EncodesItsOpcode.Statement (.wr2d y x v) :=
  opField_packFields ..
theorem EncodesItsOpcode.step2d : EncodesItsOpcode.Statement .step2d := opField_packFields ..

end Sys2Proof.Laws
end

