-- ==== Sys2Proof/Laws/Steps.lean ====
section
/-! SUPPORT. What a command and a step can answer, said once: every proof about a next state starts from these. -/

namespace Sys2Proof.Machine

/-- What a command of a running block with its operands in range leaves. -/
inductive CommandEffect (s : State) : Instr → State → Prop where
  | nop : CommandEffect s .nop s
  | decode (rule : Rule) : CommandEffect s (.decode rule) (s.setTable (decodeRule rule))
  | clr1d : CommandEffect s .clr1d s.clearGen
  | wr1d (x : Index) (v : Cell) (h : x.toNat < s.params.n) : CommandEffect s (.wr1d x v) (s.writeGen ⟨x.toNat, h⟩ v)
  | step1d : CommandEffect s .step1d (s.setGen (step1d s.table s.gen))
  | clr2d : CommandEffect s .clr2d s.clearGrid
  | wr2d (y x : Index) (v : Cell) (hy : y.toNat < s.params.r) (hx : x.toNat < s.params.c) :
      CommandEffect s (.wr2d y x v) (s.writeGrid (⟨y.toNat, hy⟩, ⟨x.toNat, hx⟩) v)
  | step2d : CommandEffect s .step2d (s.setGrid (step2d s.grid))

/-- What a command with an index outside its array is. -/
inductive OutOfRange (s : State) : Instr → Prop where
  | wr1d (x : Index) (v : Cell) (h : s.params.n ≤ x.toNat) : OutOfRange s (.wr1d x v)
  | wr2d (y x : Index) (v : Cell) (h : s.params.r ≤ y.toNat ∨ s.params.c ≤ x.toNat) : OutOfRange s (.wr2d y x v)

/-- Everything a command can answer: ignored by a frozen block, a fault for an index out of range, or its effect. -/
theorem exec_cases {i : Instr} {s t : State} (h : exec i s = .next t) :
    (s.fault = true ∧ t = s) ∨
    (s.fault = false ∧ OutOfRange s i ∧ t = s.enterFault .indexOutOfRange) ∨
    (s.fault = false ∧ CommandEffect s i t) := by
  cases i with
  | nop =>
    rcases unlessFrozen_cases h with h | ⟨hf, h⟩
    · exact .inl h
    · injection h with h; subst h; exact .inr (.inr ⟨hf, .nop⟩)
  | decode rule =>
    rcases unlessFrozen_cases h with h | ⟨hf, h⟩
    · exact .inl h
    · injection h with h; subst h; exact .inr (.inr ⟨hf, .decode rule⟩)
  | clr1d =>
    rcases unlessFrozen_cases h with h | ⟨hf, h⟩
    · exact .inl h
    · injection h with h; subst h; exact .inr (.inr ⟨hf, .clr1d⟩)
  | wr1d x v =>
    rcases unlessFrozen_cases h with h | ⟨hf, h⟩
    · exact .inl h
    · rcases Nat.lt_or_ge x.toNat s.params.n with hx | hx
      · rw [genCell?_of_lt hx] at h
        injection h with h; subst h; exact .inr (.inr ⟨hf, .wr1d x v hx⟩)
      · rw [genCell?_of_le hx] at h
        injection h with h; subst h; exact .inr (.inl ⟨hf, .wr1d x v hx, rfl⟩)
  | step1d =>
    rcases unlessFrozen_cases h with h | ⟨hf, h⟩
    · exact .inl h
    · injection h with h; subst h; exact .inr (.inr ⟨hf, .step1d⟩)
  | clr2d =>
    rcases unlessFrozen_cases h with h | ⟨hf, h⟩
    · exact .inl h
    · injection h with h; subst h; exact .inr (.inr ⟨hf, .clr2d⟩)
  | wr2d y x v =>
    rcases unlessFrozen_cases h with h | ⟨hf, h⟩
    · exact .inl h
    · by_cases hyx : s.params.r ≤ y.toNat ∨ s.params.c ≤ x.toNat
      · rw [gridCell?_of_le hyx] at h
        injection h with h; subst h; exact .inr (.inl ⟨hf, .wr2d y x v hyx, rfl⟩)
      · have hy : y.toNat < s.params.r := by omega
        have hx : x.toNat < s.params.c := by omega
        rw [gridCell?_of_lt hy hx] at h
        injection h with h; subst h; exact .inr (.inr ⟨hf, .wr2d y x v hy hx⟩)
  | step2d =>
    rcases unlessFrozen_cases h with h | ⟨hf, h⟩
    · exact .inl h
    · injection h with h; subst h; exact .inr (.inr ⟨hf, .step2d⟩)

/-- Everything a step can answer: a reset, an edge that changes nothing, the fault of a word the decoder rejects, or a command. -/
theorem step_cases {s t : State} (h : step s = .next t) :
    (s.port.rst = true ∧ t = s.advance.hardReset) ∨
    (s.port.rst = false ∧ (s.fault = true ∨ s.port.cmdValid = false) ∧ t = s.advance) ∨
    (s.TakesCommand ∧ decodeWord s.port.cmd = .illegalOpcode ∧ t = s.advance.enterFault .illegalOpcode) ∨
    (s.TakesCommand ∧ decodeWord s.port.cmd = .reservedField ∧ t = s.advance.enterFault .reservedField) ∨
    (s.TakesCommand ∧ ∃ i, decodeWord s.port.cmd = .instr i ∧ exec i s.advance = .next t) := by
  unfold step at h
  cases hr : s.port.rst with
  | true =>
    rw [clockEdge_rst _ hr] at h
    injection h with h
    exact .inl ⟨rfl, h.symm⟩
  | false =>
    refine .inr ?_
    cases hf : s.fault with
    | true =>
      rw [clockEdge_frozen hr (by simpa using hf)] at h
      injection h with h
      exact .inl ⟨rfl, .inl rfl, h.symm⟩
    | false =>
      cases hv : s.port.cmdValid with
      | false =>
        rw [clockEdge_idle hr hv] at h
        injection h with h
        exact .inl ⟨rfl, .inr rfl, h.symm⟩
      | true =>
        have takes : s.TakesCommand := ⟨hr, hf, hv⟩
        rw [clockEdge_command hr (by simpa using hf) hv, State.runWord] at h
        refine .inr ?_
        cases hd : decodeWord s.port.cmd with
        | illegalOpcode => rw [hd] at h; injection h with h; exact .inl ⟨takes, rfl, h.symm⟩
        | reservedField => rw [hd] at h; injection h with h; exact .inr (.inl ⟨takes, rfl, h.symm⟩)
        | instr i => rw [hd] at h; exact .inr (.inr ⟨takes, i, rfl, h⟩)

/-- A run of `k + 1` steps of any machine is a step and a run of `k`. -/
theorem run_succ_of_step (M : Host.Core) {k : Nat} {s s' : M.State} (h : M.step s = .next s') :
    M.run (k + 1) s = M.run k s' := by
  simp only [Host.Core.run, h]

/-- A run of `k + 1` edges is a step and a run of `k`. -/
theorem run_succ {k : Nat} {s s' : State} (h : step s = .next s') : core.run (k + 1) s = core.run k s' :=
  run_succ_of_step core h

/-- The port holds a scheduled input, or nothing is scheduled and it is idle. -/
theorem port_mem_or_idle (s : State) : s.port ∈ s.pins ∨ s.port = PortIn.idle := by
  unfold State.port
  cases s.pins <;> simp

end Sys2Proof.Machine
end

