-- ==== Sys2Proof/Tests/Slice0.lean ====
section
/-! SUPPORT. Small tests. Expected results come from spec/ (each comment names where), never from the model. -/

namespace Sys2Proof.Tests

open Sys2Proof.Machine

/-! ## Helpers -/

/-- A row of digits as cells, index 0 leftmost (95_test_vectors.md, "Notation"). -/
def cells (digits : String) : List Cell := digits.toList.map (· == '1')

/-- Rows of digits as lists of cells. -/
def rows (digits : List String) : List (List Cell) := digits.map cells

/-- `n` digits as a generation. -/
def gen (n : Nat) (digits : String) : Generation n := Vector.ofFn fun i => digits.toList.getD i '0' == '1'

/-- `r` rows of `c` digits as a grid. -/
def grid (r c : Nat) (digits : List String) : Grid r c := Vector.ofFn fun i => gen c (digits.getD i "")

/-- A block of N = 7, R = 3, C = 4, holding the table of rule 30 and something in both arrays. -/
def base : State :=
  { State.resetWith { n := 7, r := 3, c := 4 } with
    table := #v[false, false, false, true, true, true, true, false]
    gen := gen 7 "0010100"
    grid := grid 3 4 ["0110", "0100", "0001"] }

/-- `base` with the command word `w` presented at the next edge. -/
def taking (w : Nat) : State := base.withFetchWord 32 w

/-- `base` after a fault with cause 3. -/
def frozen : State := base.enterFault .indexOutOfRange

/-- The state after one step. -/
def after (s : State) : Option State := next? (step s)

/-! ## WellFormed and Params: an ill-formed term for each check (20_memory.md R30, 00_scope.md R6) -/

theorem test_wellFormed_wr1d_at_n : (Instr.wr1d 7 true).wellFormed base.params = false := by decide
theorem test_wellFormed_wr1d_last : (Instr.wr1d 6 true).wellFormed base.params = true := by decide
theorem test_wellFormed_wr2d_row_at_r : (Instr.wr2d 3 0 true).wellFormed base.params = false := by decide
theorem test_wellFormed_wr2d_column_at_c : (Instr.wr2d 0 4 true).wellFormed base.params = false := by decide
theorem test_wellFormed_wr2d_last : (Instr.wr2d 2 3 true).wellFormed base.params = true := by decide
theorem test_params_zero_is_illegal : ¬ ({ n := 0, r := 3, c := 4 } : Params).Legal := by decide
theorem test_params_rows_above_1024_illegal : ¬ ({ n := 7, r := 1025, c := 4 } : Params).Legal := by decide
theorem test_params_columns_zero_illegal : ¬ ({ n := 7, r := 3, c := 0 } : Params).Legal := by decide
theorem test_params_1024_is_legal : ({ n := 1024, r := 1, c := 1024 } : Params).Legal := by decide

/-! ## Decoding words written bit by bit: OP, Y, X, D (30_encoding.md R41, R43, R44) -/

theorem test_decode_nop : decodeWord 0b0000_0000000000_0000000000_00000000 = .instr .nop := by decide
theorem test_decode_decode : decodeWord 0b0001_0000000000_0000000000_10111000 = .instr (.decode 184) := by decide
theorem test_decode_clr1d : decodeWord 0b0010_0000000000_0000000000_00000000 = .instr .clr1d := by decide
theorem test_decode_wr1d : decodeWord 0b0011_0000000000_0001100011_00000001 = .instr (.wr1d 99 true) := by decide
theorem test_decode_step1d : decodeWord 0b0100_0000000000_0000000000_00000000 = .instr .step1d := by decide
theorem test_decode_clr2d : decodeWord 0b0101_0000000000_0000000000_00000000 = .instr .clr2d := by decide
theorem test_decode_wr2d : decodeWord 0b0110_0000110001_0000000010_00000001 = .instr (.wr2d 49 2 true) := by decide
theorem test_decode_step2d : decodeWord 0b0111_0000000000_0000000000_00000000 = .instr .step2d := by decide

/-- The highest bit of every operand field is read: X = 1023, Y = 512, D = 255. -/
theorem test_decode_high_bits :
    decodeWord 0b0011_0000000000_1111111111_00000000 = .instr (.wr1d 1023 false) ∧
    decodeWord 0b0110_1000000000_0000000001_00000000 = .instr (.wr2d 512 1 false) ∧
    decodeWord 0b0001_0000000000_0000000000_11111111 = .instr (.decode 255) := by decide

/-- 95_test_vectors.md VF-1 to VF-3: opcodes 8 and 15, the opcode first. -/
theorem test_decode_illegal :
    decodeWord 0x80000000 = .illegalOpcode ∧ decodeWord 0xF0000000 = .illegalOpcode ∧
    decodeWord 0xFFFFFFFF = .illegalOpcode := by decide

/-- 95_test_vectors.md VF-4, 5, 6, 8, 9, 10, 14, 15, 20, 21: each kind of reserved field. -/
theorem test_decode_reserved :
    decodeWord 0x00000001 = .reservedField ∧ decodeWord 0x10000100 = .reservedField ∧
    decodeWord 0x10040000 = .reservedField ∧ decodeWord 0x20000001 = .reservedField ∧
    decodeWord 0x30000002 = .reservedField ∧ decodeWord 0x30040001 = .reservedField ∧
    decodeWord 0x40000100 = .reservedField ∧ decodeWord 0x60000002 = .reservedField ∧
    decodeWord 0x70040000 = .reservedField ∧ decodeWord 0x30046402 = .reservedField := by decide

theorem test_encode_wr2d : encode (.wr2d 1 2 true) = 0x60040201 := by decide
theorem test_decodeTableWord : decodeTableWord 32 0x60040201 = some (.wr2d 1 2 true) := by decide

/-- 95_test_vectors.md section 2.5 on N = 100, R = C = 50: VF-11, 12, 16, 17, 18 and 21. -/
theorem test_classify_defaults :
    classify Params.default 0x30006301 = .execute (.wr1d 99 true) ∧
    classify Params.default 0x30006401 = .fault .indexOutOfRange ∧
    classify Params.default 0x60C43101 = .execute (.wr2d 49 49 true) ∧
    classify Params.default 0x60C83101 = .fault .indexOutOfRange ∧
    classify Params.default 0x60C43201 = .fault .indexOutOfRange ∧
    classify Params.default 0x30046402 = .fault .reservedField := by decide

/-! ## The commands, one step each -/

/-- 43_array_access.md R85. -/
theorem test_nop : after (taking 0x00000000) = some base := by decide

/-- 95_test_vectors.md VD-9: the table of rule 184 and its reversed port. -/
theorem test_decode_184 :
    (after (taking 0x100000B8)).map (fun s => (s.table, s.tableO)) =
      some (#v[true, false, true, true, true, false, false, false], 0x1D) := by decide

/-- 95_test_vectors.md VA-5 in the shape of `base`: GEN clear, TABLE unchanged. -/
theorem test_clr1d :
    (after (taking 0x20000000)).map (fun s => (s.gen.toList, s.table)) = some (cells "0000000", base.table) := by decide

/-- 95_test_vectors.md VA-4: the last legal index, a boundary cell. -/
theorem test_wr1d_last : (after (taking 0x30000601)).map (·.gen.toList) = some (cells "0010101") := by decide

/-- 43_array_access.md R87: `X` = N faults with cause 3 and GEN keeps its value. -/
theorem test_wr1d_at_n :
    (after (taking 0x30000701)).map (fun s => (s.fault, s.fcause, s.gen.toList)) = some (true, 3, cells "0010100") := by decide

/-- 95_test_vectors.md V1D-10: every cell from the old generation. -/
theorem test_step1d_snapshot :
    (next? (exec .step1d { base with table := decodeRule 240, gen := gen 7 "0110000" })).map (·.gen.toList) =
      some (cells "0011000") := by decide

/-- 95_test_vectors.md V1D-7: the boundary cells are cleared (90_conflicts.md C2). -/
theorem test_step1d_clamp : step1d (decodeRule 255) (gen 5 "11111") = gen 5 "01110" := by decide

/-- 95_test_vectors.md VA-8 in the shape of `base`. -/
theorem test_clr2d :
    (after (taking 0x50000000)).map (fun s => (gridRows s.grid, s.gen.toList)) =
      some (rows ["0000", "0000", "0000"], base.gen.toList) := by decide

/-- 95_test_vectors.md VA-7: row 2, column 3 of a cleared 3 x 4 grid, and bit 11 of `grid_o`. -/
theorem test_wr2d_last :
    (next? (exec (.wr2d 2 3 true) (State.resetWith base.params))).map (fun s => (gridRows s.grid, s.gridO.getLsbD 11)) =
      some (rows ["0000", "0000", "0001"], true) := by decide

/-- 43_array_access.md R89: a column in range for the rows but not for the columns' own bound, and the reverse. -/
theorem test_wr2d_own_bounds :
    (after (taking 0x600C0301)).map (·.fcause) = some 3 ∧ (after (taking 0x60080401)).map (·.fcause) = some 3 := by decide

/-- 95_test_vectors.md V2D-14: a grid that is not square, and no wrap-around. -/
theorem test_step2d_not_square :
    step2d (grid 3 4 ["1001", "1001", "1001"]) = grid 3 4 ["0000", "1111", "0000"] := by decide

/-- 95_test_vectors.md V2D-6: the counts and the next grid of a row of three, which an in-place sweep would not give. -/
theorem test_step2d_snapshot :
    (next? (exec .step2d { State.resetWith { n := 1, r := 3, c := 3 } with grid := grid 3 3 ["000", "111", "000"] })).map
      (gridRows ·.grid) = some (rows ["010", "010", "010"]) := by decide

/-! ## Faults, reset, idle -/

/-- 95_test_vectors.md VF-1 and VF-4: cause 1 and cause 2, nothing else written. -/
theorem test_fault_entry :
    after (taking 0x80000000) = some { base with fault := true, fcause := 1 } ∧
    after (taking 0x00000001) = some { base with fault := true, fcause := 2 } := by decide

/-- 95_test_vectors.md P5, lines 4 to 6: a frozen block ignores STEP1D, DECODE and an illegal word, and `FCAUSE` stays 3. -/
theorem test_frozen :
    after (frozen.withFetchWord 32 0x40000000) = some frozen ∧ after (frozen.withFetchWord 32 0x10000000) = some frozen ∧
    after (frozen.withFetchWord 32 0x90000000) = some frozen := by decide

/-- 95_test_vectors.md VR-1 and VR-2: reset discards the command presented with it and clears the fault. -/
theorem test_reset :
    after { base with pins := [{ rst := true, cmdValid := true, cmd := 0x40000000 }] } =
      some (State.resetWith base.params) ∧
    after { frozen with pins := [{ rst := true, cmdValid := false, cmd := 0 }] } =
      some (State.resetWith base.params) := by decide

/-- 95_test_vectors.md VR-3: with `cmd_valid` = 0 the word is not looked at. -/
theorem test_idle :
    after { base with pins := [{ rst := false, cmdValid := false, cmd := 0xFFFFFFFF }] } = some base := by decide

/-- The first command after the reset of the default block runs (log entry 1). -/
theorem test_first_command_after_reset : ∃ t, step (State.reset.withFetchWord 32 0x70000000) = .next t := ⟨_, rfl⟩

/-! ## The assembler (30_encoding.md R50, R51; 95_test_vectors.md) -/

/-- VA-1 and VA-6, and operands at and above the end of their range. -/
theorem test_assemble :
    (AsmLine.wr1d 3 1).assemble = some 0x30000301 ∧ (AsmLine.wr2d 1 2 1).assemble = some 0x60040201 ∧
    (AsmLine.decode 255).assemble = some 0x100000FF ∧ (AsmLine.decode 256).assemble = none ∧
    (AsmLine.wr1d 1023 1).assemble = some 0x3003FF01 ∧ (AsmLine.wr1d 1024 0).assemble = none ∧
    (AsmLine.wr2d 0 0 2).assemble = none ∧ (AsmLine.wr2d 1023 1023 1).assemble = some 0x6FFFFF01 := by decide

/-- P1, lines 2 and 3: `SEED1D` on N = 7. -/
theorem test_seed1d : Pseudo.seed1d.expand base.params = some [.clr1d, .wr1d 3 1] := by decide

/-- P3, lines 1 to 4: `LOAD2D` of the blinker. -/
theorem test_load2d :
    (Pseudo.load2d (rows ["00000", "00000", "01110", "00000", "00000"])).expand { n := 1, r := 5, c := 5 } =
      some [.clr2d, .wr2d 2 1 1, .wr2d 2 2 1, .wr2d 2 3 1] := by decide

/-- R51 `LOAD1D`, `RUN1D`, and a `LOAD1D` that is not a whole generation. -/
theorem test_load1d :
    (Pseudo.load1d (cells "0110000")).expand base.params = some [.clr1d, .wr1d 1 1, .wr1d 2 1] ∧
    (Pseudo.run1d 2).expand base.params = some [.step1d, .step1d] ∧
    (Pseudo.load1d (cells "0110")).expand base.params = none := by decide

/-- P1: the History Builder of rule 90, 4 generations on N = 7. -/
theorem test_history_builder :
    historyBuilder base.params 90 4 = [.decode 90, .clr1d, .wr1d 3 1, .step1d, .step1d, .step1d] := by decide

/-- The three number forms, a comment, and a mnemonic that is not in capitals. -/
theorem test_parse_numbers :
    parseLine base.params "WR1D 0x3, 1 ; seed".toList = some [.wr1d 3 1] ∧
    parseLine base.params "DECODE 0b1011010".toList = some [.decode 90] ∧
    parseLine base.params ".word 0x90000000".toList = some [.word 0x90000000] ∧
    parseLine base.params "; only a comment".toList = some [] ∧
    parseLine base.params "nop".toList = none := by decide

/-- A pseudo-instruction as text. -/
theorem test_parse_pseudo :
    parseLine { n := 3, r := 1, c := 2 } "LOAD1D 0 1 0".toList = some [.clr1d, .wr1d 1 1] ∧
    parseLine { n := 3, r := 2, c := 2 } "LOAD2D 01 / 10".toList = some [.clr2d, .wr2d 0 1 1, .wr2d 1 0 1] := by decide

/-! ## The table decode of integers (40_rule_decoder.md R59) -/

theorem test_rule_range :
    decodeRuleInt (-1) = none ∧ decodeRuleInt 256 = none ∧ decodeRuleInt 0 = some (decodeRule 0) ∧
    decodeRuleInt 255 = some (decodeRule 255) := by decide

/-! ## Witnesses: concrete states and operands that meet the hypotheses of each statement together -/

/-- `DecodeThenEncodeGivesTheWord`. -/
theorem witness_decoded_word : decodeWord 0x60C43101 = .instr (.wr2d 49 49 true) := by decide

/-- `AssembledLinesEncodeTheirCommands`, each clause at the end of its range. -/
theorem witness_assembler_ranges :
    (255 ≤ 255 ∧ 255 < 256) ∧ (1023 ≤ 1023 ∧ 1 ≤ 1) ∧ (1023 < 1024 ∨ 1 < 0) ∧ (1023 < 0 ∨ 1 < 2) ∧
    (1023 < 0 ∨ 1023 < 1024 ∨ 1 < 1) := by decide

/-- `StepRunsTheDecodedCommand`. -/
theorem witness_takes_command :
    (taking 0x40000000).TakesCommand ∧ decodeWord (taking 0x40000000).port.cmd = .instr .step1d := by decide

/-- `IllegalOpcodeIsCauseOne`: the first illegal opcode and the last legal one. -/
theorem witness_cause_one :
    base.Takes (PortIn.command 0x80000000) ∧ 8 ≤ (opField 0x80000000).toNat ∧
    base.Takes (PortIn.command 0x70000000) ∧ ¬ 8 ≤ (opField 0x70000000).toNat := by decide

/-- `ReservedFieldIsCauseTwo`: a word of each line of the listing, and one at the edge that does not fault. -/
theorem witness_cause_two :
    (base.Takes (PortIn.command 0x00000001) ∧ opField 0x00000001 = 0 ∧ dField 0x00000001 ≠ 0) ∧
    (base.Takes (PortIn.command 0x10040000) ∧ opField 0x10040000 = 1 ∧ yField 0x10040000 ≠ 0) ∧
    (base.Takes (PortIn.command 0x30000002) ∧ opField 0x30000002 = 3 ∧ 2 ≤ (dField 0x30000002).toNat) ∧
    (base.Takes (PortIn.command 0x60000002) ∧ opField 0x60000002 = 6 ∧ 2 ≤ (dField 0x60000002).toNat) ∧
    (base.Takes (PortIn.command 0x60000001) ∧ ¬ 2 ≤ (dField 0x60000001).toNat) := by decide

/-- `IndexOutOfRangeIsCauseThree`: `X` = N and N-1; `Y` = R; `X` = C; the last cell. -/
theorem witness_cause_three :
    (base.Takes (PortIn.command 0x30000701) ∧ base.params.n ≤ (xField 0x30000701).toNat) ∧
    (base.Takes (PortIn.command 0x30000601) ∧ ¬ base.params.n ≤ (xField 0x30000601).toNat) ∧
    (base.Takes (PortIn.command 0x600C0001) ∧ base.params.r ≤ (yField 0x600C0001).toNat) ∧
    (base.Takes (PortIn.command 0x60000401) ∧ base.params.c ≤ (xField 0x60000401).toNat) ∧
    (base.Takes (PortIn.command 0x60080301) ∧ (yField 0x60080301).toNat < base.params.r ∧
      (xField 0x60080301).toNat < base.params.c) := by decide

/-- `IdleEdgeChangesNothing`: an empty schedule, and an idle edge with a word that would fault. -/
theorem witness_idle :
    (base.port.rst = false ∧ base.port.cmdValid = false) ∧
    let s := base.schedule [{ rst := false, cmdValid := false, cmd := 0xFFFFFFFF }]
    s.port.rst = false ∧ s.port.cmdValid = false := by decide

/-- `ResetEdgeClearsTheBlock`, from a frozen block with a command on the port. -/
theorem witness_reset_edge :
    (frozen.schedule [{ rst := true, cmdValid := true, cmd := 0x40000000 }]).port.rst = true := by decide

/-- `StepKeepsTheSizes`, `EveryStepKeepsTheInvariant`: a step from a state that meets the invariant. -/
theorem witness_invariant_step : (taking 0x70000000).Inv ∧ ∃ t, step (taking 0x70000000) = .next t :=
  ⟨by decide, _, rfl⟩

/-- `EveryStepKeepsTheInvariant`, from a frozen state. -/
theorem witness_invariant_frozen : frozen.Inv ∧ ∃ t, step frozen = .next t := ⟨by decide, _, rfl⟩

/-- `ResetMeetsTheInvariant`: the least and the greatest legal sizes. -/
theorem witness_legal_sizes :
    ({ n := 1, r := 1, c := 1 } : Params).Legal ∧ ({ n := 1024, r := 1024, c := 1024 } : Params).Legal := by decide

/-- `IntegersOutsideTheRuleRangeAreRefused`: both sides. -/
theorem witness_rule_out_of_range : ((-1 : Int) < 0 ∨ (255 : Int) < -1) ∧ ((256 : Int) < 0 ∨ (255 : Int) < 256) := by decide

/-- The statements on a command of a block that is not frozen: DECODE, STEP1D, STEP2D, CLR1D, CLR2D. -/
theorem witness_running : base.fault = false := by decide

/-- `NextGenerationCellByCell` and `BoundaryCellsAreClampedButRead`: index 0, the last index, and the least N with an
interior. -/
theorem witness_generation_indices :
    0 < 7 ∧ 6 < 7 ∧ ¬ (1 ≤ 6 ∧ 6 ≤ 7 - 2) ∧ (1 ≤ 5 ∧ 5 ≤ 7 - 2) ∧ 1 ≤ 1 ∧ 3 ≤ 3 := by decide

/-- `LookupIsTheRuleBit`, `RuleNinetyIsExclusiveOr` and `Step1dAdvancesTheGeneration`: the first and the last interior index and both
boundary indices of N = 7. -/
theorem witness_interior :
    (1 ≤ 1 ∧ 1 + 2 ≤ 7) ∧ (1 ≤ 5 ∧ 5 + 2 ≤ 7) ∧ ((0 : Fin 7).val = 0 ∨ (0 : Fin 7).val + 1 = 7) ∧
    ((6 : Fin 7).val = 0 ∨ (6 : Fin 7).val + 1 = 7) := by decide

/-- `StepWithRuleZeroClearsTheGeneration`. -/
theorem witness_rule_zero :
    ({ base with table := decodeRule 0 } : State).fault = false ∧
    ({ base with table := decodeRule 0 } : State).table = decodeRule 0 := by decide

/-- `BlockIsTheClippedNeighbourhood`: a cell of a 3 x 4 grid, or of a smaller one, for each length and each edge. -/
theorem witness_grid_cells :
    (block (1 : Fin 3) (1 : Fin 4)).length = 9 ∧ (block (0 : Fin 3) (2 : Fin 4)).length = 6 ∧
    (block (1 : Fin 3) (3 : Fin 4)).length = 6 ∧ (block (2 : Fin 3) (3 : Fin 4)).length = 4 ∧
    (block (0 : Fin 2) (0 : Fin 2)).length = 4 ∧ (block (0 : Fin 1) (1 : Fin 4)).length = 3 ∧
    block (0 : Fin 1) (0 : Fin 1) = [(0, 0)] ∧ ((0, 2) : Fin 3 × Fin 4) ∈ block (0 : Fin 3) (1 : Fin 4) ∧
    ((2, 2) : Fin 3 × Fin 4) ∈ block (2 : Fin 3) (1 : Fin 4) ∧ ((1, 0) : Fin 3 × Fin 4) ∈ block (1 : Fin 3) (0 : Fin 4) ∧
    ((1, 3) : Fin 3 × Fin 4) ∈ block (1 : Fin 3) (3 : Fin 4) := by decide

/-- `ClippingIsPaddingWithDeadCells` and `NextGridCellByCell`: a row of the grid after a step. -/
theorem witness_next_grid_row :
    [true, true, true, true] ∈ gridRows (step2d (grid 3 4 ["1001", "1001", "1001"])) := by decide

/-- `Step2dAdvancesTheGrid`: a cell under each of the three sentences of R75. -/
theorem witness_life_sentences :
    let G := grid 3 4 ["0110", "0100", "0001"]
    (G[2][3] = true ∧ neighbourCount G 2 3 < 2) ∧ (G[1][2] = false ∧ neighbourCount G 1 2 > 3) ∧
    (G[0][1] = true ∧ neighbourCount G 0 1 = 2) := by decide

/-- `Step2dAdvancesTheGrid`: a dead cell with three neighbours, and a live one with more than three. -/
theorem witness_life_birth_and_crowding :
    let G := grid 3 4 ["0110", "1110", "0000"]
    (G[0][0] = false ∧ neighbourCount G 0 0 = 3) ∧ (G[1][1] = true ∧ neighbourCount G 1 1 > 3) := by decide

/-- `DeadGridStaysDead`. -/
theorem witness_dead_grid :
    ∀ (i : Fin 3) (j : Fin 4), (grid 3 4 ["0000", "0000", "0000"])[i][j] = false := by decide

/-- `LoneLiveCellDies`: a corner cell. -/
theorem witness_lone_cell :
    let G := grid 3 3 ["100", "000", "000"]
    G[(0 : Fin 3)][(0 : Fin 3)] = true ∧
    ∀ a b : Fin 3, (a, b) ∈ block (0 : Fin 3) (0 : Fin 3) → (a, b) ≠ (0, 0) → G[a][b] = false := by decide

/-- `TwoByTwoBlockIsAStillLife`: a block in the corner that ends the grid. -/
theorem witness_two_by_two :
    1 + 1 < 3 ∧ 2 + 1 < 4 ∧
    ∀ (i : Fin 3) (j : Fin 4), (grid 3 4 ["0000", "0011", "0011"])[i][j] = true ↔
      (i.val = 1 ∨ i.val = 1 + 1) ∧ (j.val = 2 ∨ j.val = 2 + 1) := by decide

/-- `StepIgnoresTheDrawingDirection`: a grid with its rows turned over, its columns turned over, and exchanged. -/
theorem witness_drawing_directions :
    let G := grid 3 4 ["0110", "0100", "0001"]
    (∀ (i : Fin 3) (j : Fin 4), (grid 3 4 ["0001", "0100", "0110"])[i][j] = G[i.rev][j]) ∧
    (∀ (i : Fin 3) (j : Fin 4), (grid 3 4 ["0110", "0010", "1000"])[i][j] = G[i][j.rev]) ∧
    (∀ (i : Fin 4) (j : Fin 3), (grid 4 3 ["000", "110", "100", "001"])[i][j] = G[j][i]) := by decide

/-- `Wr1dWritesOneCell`: the first and the last cell. -/
theorem witness_wr1d :
    base.fault = false ∧ (0 : Index).toNat < base.params.n ∧ (6 : Index).toNat < base.params.n := by decide

/-- `Wr2dWritesOneCell`: the first and the last cell. -/
theorem witness_wr2d :
    base.fault = false ∧ ((0 : Index).toNat < base.params.r ∧ (0 : Index).toNat < base.params.c) ∧
    ((2 : Index).toNat < base.params.r ∧ (3 : Index).toNat < base.params.c) := by decide

/-- `WritesOutOfRangeFaultAndWriteNothing`: the first index outside each bound, and the last of the field. -/
theorem witness_out_of_range :
    base.fault = false ∧ base.params.n ≤ (7 : Index).toNat ∧ base.params.n ≤ (1023 : Index).toNat ∧
    (base.params.r ≤ (3 : Index).toNat ∨ base.params.c ≤ (0 : Index).toNat) ∧
    (base.params.r ≤ (0 : Index).toNat ∨ base.params.c ≤ (4 : Index).toNat) := by decide

/-- `FrozenBlockIgnoresEveryCommand`, `OnlyResetLeavesTheFrozenState`: without and with a reset. -/
theorem witness_frozen :
    frozen.fault = true ∧ (∃ t, frozen.clockEdge (PortIn.command 0x40000000) = .next t ∧ t.fault = true) ∧
    ∃ t, frozen.clockEdge { rst := true, cmdValid := false, cmd := 0 } = .next t ∧ t.fault = false :=
  ⟨by decide, ⟨_, rfl, rfl⟩, _, rfl, rfl⟩

/-- `CommandsWriteOnlyTheirOwnArray`: commands that change the table, an array, the grid and the fault flag. -/
theorem witness_changing_commands :
    (∃ t, exec (.decode 255) base = .next t ∧ t.table ≠ base.table) ∧
    (∃ t, exec .clr1d base = .next t ∧ t.gen.toList ≠ base.gen.toList) ∧
    (∃ t, exec .clr2d base = .next t ∧ gridRows t.grid ≠ gridRows base.grid) ∧
    (∃ t, exec (.wr1d 7 true) base = .next t ∧ t.fault ≠ base.fault) :=
  ⟨⟨_, rfl, by decide⟩, ⟨_, rfl, by decide⟩, ⟨_, rfl, by decide⟩, ⟨_, rfl, by decide⟩⟩

/-- `WritesAreIdempotent`: a write in range and one that faults. -/
theorem witness_idempotent :
    (Instr.wr1d 0 true ≠ .step1d ∧ Instr.wr1d 0 true ≠ .step2d ∧ ∃ t, exec (.wr1d 0 true) base = .next t) ∧
    (Instr.wr2d 3 0 true ≠ .step1d ∧ Instr.wr2d 3 0 true ≠ .step2d ∧ ∃ t, exec (.wr2d 3 0 true) base = .next t) :=
  ⟨⟨by decide, by decide, _, rfl⟩, by decide, by decide, _, rfl⟩

/-- `FaultEntryIsPrecise`: each of the three causes. -/
theorem witness_fault_entry :
    base.fault = false ∧
    (∃ t, base.clockEdge (PortIn.command 0x80000000) = .next t ∧ t.fault = true) ∧
    (∃ t, base.clockEdge (PortIn.command 0x00000001) = .next t ∧ t.fault = true) ∧
    ∃ t, base.clockEdge (PortIn.command 0x30000701) = .next t ∧ t.fault = true :=
  ⟨by decide, ⟨_, rfl, rfl⟩, ⟨_, rfl, rfl⟩, _, rfl, rfl⟩

/-- `FrozenBlockStaysFrozenUntilReset`: a frozen block with commands scheduled. -/
theorem witness_frozen_run :
    (frozen.presentAll [0x40000000, 0x90000000]).fault = true ∧
    (frozen.presentAll [0x40000000, 0x90000000]).NoResetScheduled := by decide

/-- `RegistersAreWrittenOnlyByTheirEvents`: a step that changes each register. -/
theorem witness_changing_steps :
    (∃ t, step (taking 0x100000FF) = .next t ∧ t.table ≠ (taking 0x100000FF).table) ∧
    (∃ t, step (taking 0x20000000) = .next t ∧ t.gen.toList ≠ (taking 0x20000000).gen.toList) ∧
    (∃ t, step (taking 0x50000000) = .next t ∧ gridRows t.grid ≠ gridRows (taking 0x50000000).grid) ∧
    (∃ t, step (taking 0x80000000) = .next t ∧ t.fcause ≠ (taking 0x80000000).fcause) ∧
    (taking 0x100000FF).port.rst = false :=
  ⟨⟨_, rfl, by decide⟩, ⟨_, rfl, by decide⟩, ⟨_, rfl, by decide⟩, ⟨_, rfl, by decide⟩, by decide⟩

/-- `EnginesDoNotReadEachOther`: a step, with another grid and with another table and generation to put in place. -/
theorem witness_other_engine :
    (∃ t, step (taking 0x40000000) = .next t) ∧ gridRows (grid 3 4 []) ≠ gridRows base.grid ∧
    decodeRule 0 ≠ base.table ∧ (gen 7 "").toList ≠ base.gen.toList := ⟨⟨_, rfl⟩, by decide, by decide, by decide⟩

/-- `UnitsRaiseNoFault`: each of the three commands. -/
theorem witness_units :
    (∃ rule, Instr.decode 255 = .decode rule) ∧ Instr.step1d = .step1d ∧ Instr.step2d = .step2d := ⟨⟨_, rfl⟩, rfl, rfl⟩

/-- The two one-word schedules of `witness_engine_schedules` decode to one command each. -/
theorem step1d_word_is_1D : ∀ i, decodeWord 0x40000000 = .instr i → i = .nop ∨ engine1D i = true := by
  intro i h
  have h' : decodeWord 0x40000000 = .instr .step1d := by decide
  rw [h'] at h
  injection h with h
  subst h
  decide

theorem step2d_word_is_2D : ∀ i, decodeWord 0x70000000 = .instr i → i = .nop ∨ engine2D i = true := by
  intro i h
  have h' : decodeWord 0x70000000 = .instr .step2d := by decide
  rw [h'] at h
  injection h with h
  subst h
  decide

/-- `EngineCommandsLeaveTheOtherEngine`: a schedule of each engine, and a run of it. -/
theorem witness_engine_schedules :
    ((taking 0x40000000).NoResetScheduled ∧ (taking 0x40000000).SchedulesOnly engine1D ∧
      ∃ t, core.run 1 (taking 0x40000000) = .next t) ∧
    ((taking 0x70000000).NoResetScheduled ∧ (taking 0x70000000).SchedulesOnly engine2D ∧
      ∃ t, core.run 1 (taking 0x70000000) = .next t) := by
  refine ⟨⟨by decide, ?_, _, rfl⟩, by decide, ?_, _, rfl⟩
  · intro e he _
    rw [show e = PortIn.command 0x40000000 from List.mem_singleton.1 he]
    exact step1d_word_is_1D
  · intro e he _
    rw [show e = PortIn.command 0x70000000 from List.mem_singleton.1 he]
    exact step2d_word_is_2D

/-- `PortsShowTheState`: the first and last cells, and a DECODE. -/
theorem witness_ports :
    (0 < base.params.n ∧ 6 < base.params.n) ∧ (2 < base.params.r ∧ 3 < base.params.c) ∧ base.fault = false ∧
    ∃ t, exec (.decode 4) base = .next t := ⟨by decide, by decide, by decide, _, rfl⟩

/-- `FailedRunHasNoResult`: both ends of a run. -/
theorem witness_results : frozen.fault = true ∧ base.fault = false := by decide

end Sys2Proof.Tests
end

section
/-! PROOFS of the scope statements (spec file 00_scope.md): the sizes never change, every step keeps the invariant, and the two
engines do not read each other. -/

namespace Sys2Proof.Machine

variable {s s' t : State} {i : Instr}

/-! ## What a command answers

The converses of `exec_cases`: each of its cases is reached. -/

/-- A frozen block ignores every command (60_exceptions.md R99). -/
theorem exec_of_fault (i : Instr) (hf : s.fault = true) : exec i s = .next s := by
  cases i <;> exact unlessFrozen_of_fault hf _

/-- A running block faults on an index outside its array (60_exceptions.md R96). -/
theorem exec_of_outOfRange (hf : s.fault = false) (h : OutOfRange s i) :
    exec i s = .next (s.enterFault .indexOutOfRange) := by
  cases h with
  | wr1d x v hx => exact (unlessFrozen_of_running hf _).trans (by rw [genCell?_of_le hx, onCell_none])
  | wr2d y x v hyx => exact (unlessFrozen_of_running hf _).trans (by rw [gridCell?_of_le hyx, onCell_none])

/-- A running block executes a command whose operands are in range. -/
theorem exec_of_commandEffect (hf : s.fault = false) (h : CommandEffect s i t) : exec i s = .next t := by
  cases h with
  | wr1d x v hx => exact (unlessFrozen_of_running hf _).trans (by rw [genCell?_of_lt hx, onCell_some])
  | wr2d y x v hy hx => exact (unlessFrozen_of_running hf _).trans (by rw [gridCell?_of_lt hy hx, onCell_some])
  | nop | decode | clr1d | step1d | clr2d | step2d => exact unlessFrozen_of_running hf _

/-! ## What a step answers

The converses of `step_cases`, in the order of the priority list of 60_exceptions.md R97. -/

theorem step_of_rst (hr : s.port.rst = true) : step s = .next s.advance.hardReset := clockEdge_rst _ hr

theorem step_of_ignored (hr : s.port.rst = false) (h : s.fault = true ∨ s.port.cmdValid = false) :
    step s = .next s.advance := by
  rcases h with hf | hv
  · exact clockEdge_frozen hr hf
  · exact clockEdge_idle hr hv

theorem step_of_takesCommand (h : s.TakesCommand) : step s = s.advance.runWord s.port.cmd := by
  obtain ⟨hr, hf, hv⟩ := h
  exact clockEdge_command hr hf hv

theorem step_of_illegalOpcode (h : s.TakesCommand) (hd : decodeWord s.port.cmd = .illegalOpcode) :
    step s = .next (s.advance.enterFault .illegalOpcode) := by
  rw [step_of_takesCommand h, State.runWord, hd]

theorem step_of_reservedField (h : s.TakesCommand) (hd : decodeWord s.port.cmd = .reservedField) :
    step s = .next (s.advance.enterFault .reservedField) := by
  rw [step_of_takesCommand h, State.runWord, hd]

theorem step_of_instr (h : s.TakesCommand) (hd : decodeWord s.port.cmd = .instr i) : step s = exec i s.advance := by
  rw [step_of_takesCommand h, State.runWord, hd]

/-! ## The sizes and the inputs -/

/-- The effect of a command is on `TABLE`, `GEN` and `GRID` alone. -/
theorem CommandEffect.frame (h : CommandEffect s i t) :
    t.params = s.params ∧ t.pins = s.pins ∧ t.fault = s.fault ∧ t.fcause = s.fcause := by
  cases h <;> exact ⟨rfl, rfl, rfl, rfl⟩

theorem exec_keeps_params_pins (h : exec i s = .next t) : t.params = s.params ∧ t.pins = s.pins := by
  rcases exec_cases h with ⟨-, rfl⟩ | ⟨-, -, rfl⟩ | ⟨-, heff⟩
  · exact ⟨rfl, rfl⟩
  · exact ⟨rfl, rfl⟩
  · obtain ⟨hparams, hpins, -, -⟩ := heff.frame
    exact ⟨hparams, hpins⟩

theorem step_keeps_params_and_consumes_pin (h : step s = .next t) : t.params = s.params ∧ t.pins = s.pins.tail := by
  rcases step_cases h with ⟨-, rfl⟩ | ⟨-, -, rfl⟩ | ⟨-, -, rfl⟩ | ⟨-, -, rfl⟩ | ⟨-, i, -, hexec⟩
  case inr.inr.inr.inr => exact exec_keeps_params_pins hexec
  all_goals exact ⟨rfl, rfl⟩

/-- Settles O16: each case of `step_cases` starts from `s.advance`, and nothing after it writes the sizes or the inputs. -/
theorem stepKeepsTheSizes : Obligations.StepKeepsTheSizes := fun _ _ h => step_keeps_params_and_consumes_pin h

/-! ## The invariant -/

/-- No cause has the code 0, which stands for "no fault" (60_exceptions.md R93). -/
theorem Cause.code_ne_zero (c : Cause) : c.code ≠ 0 := by cases c <;> decide

theorem State.causeMatches_enterFault (s : State) (c : Cause) : (s.enterFault c).CauseMatches :=
  ⟨fun h => absurd h c.code_ne_zero, nofun⟩

theorem State.causeMatches_hardReset (s : State) : s.hardReset.CauseMatches := iff_of_true rfl rfl

theorem exec_keeps_causeMatches (hs : s.CauseMatches) (h : exec i s = .next t) : t.CauseMatches := by
  rcases exec_cases h with ⟨-, rfl⟩ | ⟨-, -, rfl⟩ | ⟨-, heff⟩
  · exact hs
  · exact s.causeMatches_enterFault _
  · obtain ⟨-, -, hfault, hfcause⟩ := heff.frame
    rwa [State.CauseMatches, hfault, hfcause]

theorem step_keeps_causeMatches (hs : s.CauseMatches) (h : step s = .next t) : t.CauseMatches := by
  rcases step_cases h with ⟨-, rfl⟩ | ⟨-, -, rfl⟩ | ⟨-, -, rfl⟩ | ⟨-, -, rfl⟩ | ⟨-, i, -, hexec⟩
  · exact s.advance.causeMatches_hardReset
  · exact hs
  · exact s.advance.causeMatches_enterFault _
  · exact s.advance.causeMatches_enterFault _
  · exact exec_keeps_causeMatches (s := s.advance) hs hexec

/-- Settles O54: the sizes stay, `FAULT` and `FCAUSE` are written together by fault entry and reset alone, and the arrays have the
shapes of the sizes by their types. -/
theorem everyStepKeepsTheInvariant : Obligations.EveryStepKeepsTheInvariant := by
  intro s t ⟨hlegal, hcause⟩ h
  obtain ⟨hparams, -⟩ := step_keeps_params_and_consumes_pin h
  rw [← hparams] at hlegal ⊢
  exact ⟨⟨hlegal, step_keeps_causeMatches hcause h⟩, t.hasShape⟩

/-! ## Noninterference of the two engines (20_memory.md R39)

Two states that agree except in one engine take the same case of a step, and agree except in that engine after it. The simulation
is proved once, for any relation of states with the closure properties below. -/

/-- A relation of states under which an edge takes the same case on both sides, and which every operation of an edge keeps. -/
structure IsSimulation (R : State → State → Prop) : Prop where
  params : ∀ {s s'}, R s s' → s'.params = s.params
  port : ∀ {s s'}, R s s' → s'.port = s.port
  fault : ∀ {s s'}, R s s' → s'.fault = s.fault
  advance : ∀ {s s'}, R s s' → R s.advance s'.advance
  hardReset : ∀ {s s'}, R s s' → R s.hardReset s'.hardReset
  enterFault : ∀ {s s'} (c : Cause), R s s' → R (s.enterFault c) (s'.enterFault c)
  effect : ∀ {s s' t i}, R s s' → CommandEffect s i t → ∃ t', CommandEffect s' i t' ∧ R t t'

/-- Whether an index is out of range depends on the sizes alone (20_memory.md R30). -/
theorem OutOfRange.of_params_eq (hp : s'.params = s.params) (h : OutOfRange s i) : OutOfRange s' i := by
  cases h with
  | wr1d x v hx => exact .wr1d x v (hp ▸ hx)
  | wr2d y x v hyx => exact .wr2d y x v (hp ▸ hyx)

theorem IsSimulation.exec_next {R : State → State → Prop} (hR : IsSimulation R) (hs : R s s') (h : exec i s = .next t) :
    ∃ t', exec i s' = .next t' ∧ R t t' := by
  have hfault := hR.fault hs
  rcases exec_cases h with ⟨hf, rfl⟩ | ⟨hf, hout, rfl⟩ | ⟨hf, heff⟩
  · exact ⟨s', exec_of_fault i (hfault.trans hf), hs⟩
  · exact ⟨_, exec_of_outOfRange (hfault.trans hf) (hout.of_params_eq (hR.params hs)), hR.enterFault _ hs⟩
  · obtain ⟨t', heff', ht⟩ := hR.effect hs heff
    exact ⟨t', exec_of_commandEffect (hfault.trans hf) heff', ht⟩

theorem IsSimulation.takesCommand {R : State → State → Prop} (hR : IsSimulation R) (hs : R s s') (h : s.TakesCommand) :
    s'.TakesCommand := by
  rwa [State.TakesCommand, State.Takes, hR.port hs, hR.fault hs]

theorem IsSimulation.step_next {R : State → State → Prop} (hR : IsSimulation R) (hs : R s s') (h : step s = .next t) :
    ∃ t', step s' = .next t' ∧ R t t' := by
  have hport := hR.port hs
  have hadv := hR.advance hs
  rcases step_cases h with ⟨hr, rfl⟩ | ⟨hr, hign, rfl⟩ | ⟨htake, hd, rfl⟩ | ⟨htake, hd, rfl⟩ | ⟨htake, i, hd, hexec⟩
  · exact ⟨_, step_of_rst (by rwa [hport]), hR.hardReset hadv⟩
  · exact ⟨_, step_of_ignored (by rwa [hport]) (by rwa [hport, hR.fault hs]), hadv⟩
  · exact ⟨_, step_of_illegalOpcode (hR.takesCommand hs htake) (by rwa [hport]), hR.enterFault _ hadv⟩
  · exact ⟨_, step_of_reservedField (hR.takesCommand hs htake) (by rwa [hport]), hR.enterFault _ hadv⟩
  · rw [step_of_instr (hR.takesCommand hs htake) (by rwa [hport])]
    exact hR.exec_next hadv hexec

/-- The second state is the first with another grid: the two may differ in the 2D engine only. -/
def SameButGrid (s s' : State) : Prop := ∃ G, s' = s.setGrid G

/-- The second state is the first with another table and generation: the two may differ in the 1D engine only. -/
def SameButTableGen (s s' : State) : Prop := ∃ T g, s' = (s.setTable T).setGen g

/-- A command writes outside the grid what does not depend on the grid. -/
theorem CommandEffect.setGrid (h : CommandEffect s i t) (G : Grid s.params.r s.params.c) :
    ∃ G', CommandEffect (s.setGrid G) i (t.setGrid G') := by
  cases h with
  | nop => exact ⟨G, .nop⟩
  | decode rule => exact ⟨G, .decode rule⟩
  | clr1d => exact ⟨G, .clr1d⟩
  | wr1d x v hx => exact ⟨G, .wr1d (s := s.setGrid G) x v hx⟩
  | step1d => exact ⟨G, .step1d⟩
  | clr2d => exact ⟨_, .clr2d⟩
  | wr2d y x v hy hx => exact ⟨_, .wr2d (s := s.setGrid G) y x v hy hx⟩
  | step2d => exact ⟨_, .step2d⟩

/-- A command writes outside the table and the generation what does not depend on them. -/
theorem CommandEffect.setTable_setGen (h : CommandEffect s i t) (T : Table) (g : Generation s.params.n) :
    ∃ T' g', CommandEffect ((s.setTable T).setGen g) i ((t.setTable T').setGen g') := by
  cases h with
  | nop => exact ⟨T, g, .nop⟩
  | decode rule => exact ⟨decodeRule rule, g, .decode rule⟩
  | clr1d => exact ⟨T, _, .clr1d⟩
  | wr1d x v hx => exact ⟨T, _, .wr1d (s := (s.setTable T).setGen g) x v hx⟩
  | step1d => exact ⟨T, _, .step1d⟩
  | clr2d => exact ⟨T, g, .clr2d⟩
  | wr2d y x v hy hx => exact ⟨T, g, .wr2d (s := (s.setTable T).setGen g) y x v hy hx⟩
  | step2d => exact ⟨T, g, .step2d⟩

theorem sameButGrid_isSimulation : IsSimulation SameButGrid where
  params := by rintro s _ ⟨G, rfl⟩; rfl
  port := by rintro s _ ⟨G, rfl⟩; rfl
  fault := by rintro s _ ⟨G, rfl⟩; rfl
  advance := by rintro s _ ⟨G, rfl⟩; exact ⟨G, rfl⟩
  hardReset := by rintro s _ ⟨G, rfl⟩; exact ⟨s.hardReset.grid, rfl⟩
  enterFault := by rintro s _ c ⟨G, rfl⟩; exact ⟨G, rfl⟩
  effect := by
    rintro s _ t i ⟨G, rfl⟩ h
    obtain ⟨G', h'⟩ := h.setGrid G
    exact ⟨_, h', G', rfl⟩

theorem sameButTableGen_isSimulation : IsSimulation SameButTableGen where
  params := by rintro s _ ⟨T, g, rfl⟩; rfl
  port := by rintro s _ ⟨T, g, rfl⟩; rfl
  fault := by rintro s _ ⟨T, g, rfl⟩; rfl
  advance := by rintro s _ ⟨T, g, rfl⟩; exact ⟨T, g, rfl⟩
  hardReset := by rintro s _ ⟨T, g, rfl⟩; exact ⟨s.hardReset.table, s.hardReset.gen, rfl⟩
  enterFault := by rintro s _ c ⟨T, g, rfl⟩; exact ⟨T, g, rfl⟩
  effect := by
    rintro s _ t i ⟨T, g, rfl⟩ h
    obtain ⟨T', g', h'⟩ := h.setTable_setGen T g
    exact ⟨_, h', T', g', rfl⟩

/-- Settles O52: agreeing except in one engine is a simulation, for either engine. -/
theorem enginesDoNotReadEachOther : Obligations.EnginesDoNotReadEachOther := by
  intro s t h
  constructor
  · intro G
    obtain ⟨_, hstep, G', rfl⟩ := sameButGrid_isSimulation.step_next ⟨G, rfl⟩ h
    exact ⟨G', hstep⟩
  · intro T g
    obtain ⟨_, hstep, T', g', rfl⟩ := sameButTableGen_isSimulation.step_next ⟨T, g, rfl⟩ h
    exact ⟨T', g', hstep⟩

end Sys2Proof.Machine
end

section
/-! PROOFS of the state statements (spec file 10_state.md): what a reset leaves, which event of an edge writes which register, and
what the output ports show. -/

namespace Sys2Proof

/-! ## The decoder's three answers (30_encoding.md R45, R46) -/

theorem decodeWord_eq_illegalOpcode_iff (w : Word) : decodeWord w = .illegalOpcode ↔ 8 ≤ (opField w).toNat := by
  rw [← ofCode_eq_none_iff, decodeWord]
  cases Opcode.ofCode (opField w) with
  | none => simp
  | some o => cases hz : o.reservedZero w <;> simp [hz]

theorem decodeWord_eq_reservedField_iff (w : Word) :
    decodeWord w = .reservedField ↔ ∃ o, Opcode.ofCode (opField w) = some o ∧ o.reservedZero w = false := by
  rw [decodeWord]
  cases Opcode.ofCode (opField w) with
  | none => simp
  | some o => cases hz : o.reservedZero w <;> simp [hz]

theorem decodeWord_eq_instr_iff (w : Word) (i : Instr) :
    decodeWord w = .instr i ↔
      ∃ o, Opcode.ofCode (opField w) = some o ∧ o.reservedZero w = true ∧ o.operands w = i := by
  rw [decodeWord]
  cases Opcode.ofCode (opField w) with
  | none => simp
  | some o => cases hz : o.reservedZero w <;> simp [hz]

/-! ## The mask of a row, field by field (30_encoding.md R44) -/

/-- A masked word is masked in each of its fields. -/
theorem and_packFields (w : Word) (op : BitVec 4) (y x : Index) (d : BitVec 8) :
    w &&& packFields op y x d = packFields (opField w &&& op) (yField w &&& y) (xField w &&& x) (dField w &&& d) := by
  conv_lhs => rw [← packFields_fields w]
  exact BitVec.and_append.trans (congrArg (· ++ (dField w &&& d))
    (BitVec.and_append.trans (congrArg (· ++ (xField w &&& x)) BitVec.and_append)))

theorem packFields_inj {op op' : BitVec 4} {y y' x x' : Index} {d d' : BitVec 8} :
    packFields op y x d = packFields op' y' x' d' ↔ op = op' ∧ y = y' ∧ x = x' ∧ d = d' := by
  refine ⟨fun h => ⟨?_, ?_, ?_, ?_⟩, by rintro ⟨rfl, rfl, rfl, rfl⟩; rfl⟩
  · simpa using congrArg opField h
  · simpa using congrArg yField h
  · simpa using congrArg xField h
  · simpa using congrArg dField h

theorem pattern_eq_packFields (o : Opcode) : o.pattern = packFields o.code 0 0 0 := by cases o <;> decide

/-- `D[7:1]` is 0 exactly if `D` is a cell value (30_encoding.md R42). -/
theorem and_0xFE_eq_zero_iff (d : BitVec 8) : d &&& 0xFE = 0 ↔ d.toNat < 2 := by
  revert d
  decide

/-- A mask given by its fields is compared field by field. -/
theorem and_mask_eq_pattern_iff_fields (w : Word) {o : Opcode} {op : BitVec 4} {y x : Index} {d : BitVec 8}
    (hmask : o.mask = packFields op y x d) :
    w &&& o.mask = o.pattern ↔
      opField w &&& op = o.code ∧ yField w &&& y = 0 ∧ xField w &&& x = 0 ∧ dField w &&& d = 0 := by
  rw [hmask, pattern_eq_packFields, and_packFields, packFields_inj]

/-- `(w and mask) == match` says that `OP` is the row's and the fields reserved for the row are 0. -/
theorem and_mask_eq_pattern_iff (w : Word) (o : Opcode) :
    w &&& o.mask = o.pattern ↔ opField w = o.code ∧ o.reservedZero w = true := by
  have keep_op (b : BitVec 4) : b &&& 0xF = b := BitVec.and_allOnes
  have keep_index (x : Index) : x &&& 0x3FF = x := BitVec.and_allOnes
  have keep_data (d : BitVec 8) : d &&& 0xFF = d := BitVec.and_allOnes
  have drop {n : Nat} (b : BitVec n) : b &&& 0 = 0 := BitVec.and_zero
  cases o with
  | nop | clr1d | step1d | clr2d | step2d =>
    rw [and_mask_eq_pattern_iff_fields w (op := 0xF) (y := 0x3FF) (x := 0x3FF) (d := 0xFF) rfl, keep_op, keep_index,
      keep_index, keep_data]
    simp only [Opcode.reservedZero, Bool.and_eq_true, beq_iff_eq, and_assoc]
  | decode =>
    rw [and_mask_eq_pattern_iff_fields w (op := 0xF) (y := 0x3FF) (x := 0x3FF) (d := 0) rfl, keep_op, keep_index,
      keep_index, drop]
    simp only [Opcode.reservedZero, Bool.and_eq_true, beq_iff_eq, and_true]
  | wr1d =>
    rw [and_mask_eq_pattern_iff_fields w (op := 0xF) (y := 0x3FF) (x := 0) (d := 0xFE) rfl, keep_op, keep_index, drop,
      and_0xFE_eq_zero_iff]
    simp only [Opcode.reservedZero, Bool.and_eq_true, beq_iff_eq, decide_eq_true_eq, true_and]
  | wr2d =>
    rw [and_mask_eq_pattern_iff_fields w (op := 0xF) (y := 0) (x := 0) (d := 0xFE) rfl, keep_op, drop, drop,
      and_0xFE_eq_zero_iff]
    simp only [Opcode.reservedZero, decide_eq_true_eq, true_and]

end Sys2Proof

namespace Sys2Proof.Machine

variable {s t : State} {i : Instr} {w : Word}

/-! ## `classify` and the decoder (30_encoding.md R47)

`classify` reads the match and mask words, the decoder the fields; they judge a word alike. -/

/-- The row `classify` looks up is the row the decoder looks up. -/
theorem rowOf_eq_ofCode (w : Word) : rowOf w = Opcode.ofCode (opField w) := by
  unfold rowOf
  generalize opField w = b
  revert b
  decide

theorem classify_of_illegalOpcode (p : Params) (h : decodeWord w = .illegalOpcode) :
    classify p w = .fault .illegalOpcode :=
  if_pos ((decodeWord_eq_illegalOpcode_iff w).1 h)

/-- A word with a row is judged by its reserved fields first, and then by its index operands. -/
theorem classify_of_row {o : Opcode} (p : Params) (h : Opcode.ofCode (opField w) = some o) :
    classify p w =
      if o.reservedZero w = false then .fault .reservedField
      else if (o.operands w).wellFormed p = false then .fault .indexOutOfRange
      else .execute (o.operands w) := by
  have hcode : opField w = o.code := ((ofCode_eq_some_iff _ _).1 h).symm
  have hlegal : ¬ 8 ≤ (opField w).toNat := by rw [← ofCode_eq_none_iff, h]; nofun
  have hmask : w &&& o.mask ≠ o.pattern ↔ o.reservedZero w = false := by simp [and_mask_eq_pattern_iff, hcode]
  simp only [classify, if_neg hlegal, rowOf_eq_ofCode, h, hmask]
  cases o <;> simp [Opcode.operands, Instr.wellFormed, imp_iff_not_or]

theorem classify_of_reservedField (p : Params) (h : decodeWord w = .reservedField) :
    classify p w = .fault .reservedField := by
  obtain ⟨o, ho, hz⟩ := (decodeWord_eq_reservedField_iff w).1 h
  rw [classify_of_row p ho, if_pos hz]

theorem classify_of_instr (p : Params) (h : decodeWord w = .instr i) :
    classify p w = if i.wellFormed p = false then .fault .indexOutOfRange else .execute i := by
  obtain ⟨o, ho, hz, rfl⟩ := (decodeWord_eq_instr_iff w i).1 h
  rw [classify_of_row p ho, if_neg (by simp [hz])]

theorem OutOfRange.wellFormed_eq_false (h : OutOfRange s i) : i.wellFormed s.params = false := by
  cases h with
  | wr1d x v hx => simpa [Instr.wellFormed] using hx
  | wr2d y x v hyx => simpa [Instr.wellFormed, imp_iff_not_or] using hyx

theorem classify_of_outOfRange (h : decodeWord w = .instr i) (hout : OutOfRange s i) :
    classify s.params w = .fault .indexOutOfRange := by
  rw [classify_of_instr _ h, if_pos hout.wellFormed_eq_false]

/-! ## Reset (10_state.md R22) -/

/-- Every bit of the block's state is 0 (10_state.md R22). -/
def State.AllZero (s : State) : Prop :=
  (∀ k : Fin 8, s.table[k] = false) ∧ (∀ i : Fin s.params.n, s.gen[i] = false) ∧
  (∀ (i : Fin s.params.r) (j : Fin s.params.c), s.grid[i][j] = false) ∧ s.fault = false ∧ s.fcause = 0

/-- The table after reset is that of rule 0. -/
theorem resetWith_table (p : Params) : (State.resetWith p).table = decodeRule 0 :=
  show #v[false, false, false, false, false, false, false, false] = decodeRule 0 by decide

theorem allZero_resetWith (p : Params) : (State.resetWith p).AllZero := by
  have hgrid (i : Fin p.r) (j : Fin p.c) : (Vector.replicate p.r (Vector.replicate p.c false))[i][j] = false := by simp
  exact ⟨resetWith_table p ▸ by decide, fun _ => Vector.getElem_replicate .., hgrid, rfl, rfl⟩

theorem allZero_hardReset (s : State) : s.hardReset.AllZero := allZero_resetWith s.params

/-- Settles O14: a reset edge is taken before everything else on the ports and in `FAULT`. -/
theorem resetEdgeClearsTheBlock : Obligations.ResetEdgeClearsTheBlock := by
  intro s hr
  obtain ⟨htable, hgen, hgrid, hfault, hfcause⟩ := allZero_hardReset s.advance
  exact ⟨_, step_of_rst hr, htable, hgen, hgrid, hfault, hfcause, rfl, rfl⟩

/-- Settles O55: a reset state has the sizes it is given, and `FAULT` and `FCAUSE` are 0 together. -/
theorem resetMeetsTheInvariant : Obligations.ResetMeetsTheInvariant := by
  have hinv (p : Params) (hp : p.Legal) : (State.resetWith p).Inv := ⟨hp, iff_of_true rfl rfl⟩
  exact ⟨hinv Params.default (by decide), fun p hp => ⟨hinv p hp, (State.resetWith p).hasShape⟩⟩

/-- Every entry of the table of rule 0 is 0, and a lookup in it as well (41_stepper_1d.md R69). -/
theorem lookup_decodeRule_zero (v : Nat) : lookup (decodeRule 0) v = false := by
  simp [lookup, decodeRule]

/-- With the table of rule 0 a 1D step clears the generation (41_stepper_1d.md R69). -/
theorem step1d_decodeRule_zero {n : Nat} (g : Generation n) : step1d (decodeRule 0) g = Vector.replicate n false := by
  ext i hi
  by_cases h : Interior n i
  · rw [getElem_step1d hi, nextCell1d_interior h, lookup_decodeRule_zero, Vector.getElem_replicate]
  · simp [nextCell1d_boundary h]

/-- Settles O56: the table after reset is that of rule 0, whose step leaves a generation of zeros as it is. -/
theorem everyBitIsZeroAfterReset : Obligations.EveryBitIsZeroAfterReset := by
  intro p
  obtain ⟨htable, hgen, hgrid, hfault, hfcause⟩ := allZero_resetWith p
  have hgen' : step1d (State.resetWith p).table (State.resetWith p).gen = (State.resetWith p).gen := by
    rw [resetWith_table]; exact step1d_decodeRule_zero _
  have hstep : exec .step1d (State.resetWith p) = .next ((State.resetWith p).setGen _) :=
    exec_of_commandEffect hfault .step1d
  rw [hgen'] at hstep
  exact ⟨htable, hgen, hgrid, hfault, hfcause, rfl, resetWith_table p, hstep⟩

/-! ## Which event writes which register (10_state.md R10) -/

/-- Everything an edge without reset can answer, with `classify` as the judge of a faulting word. -/
theorem step_cases_of_no_rst (h : step s = .next t) (hr : s.port.rst = false) :
    t = s.advance ∨
    (s.TakesCommand ∧ ∃ c, classify s.params s.port.cmd = .fault c ∧ t = s.advance.enterFault c) ∨
    (s.TakesCommand ∧ ∃ i, decodeWord s.port.cmd = .instr i ∧ CommandEffect s.advance i t) := by
  rcases step_cases h with ⟨hr', -⟩ | ⟨-, -, rfl⟩ | ⟨htake, hd, rfl⟩ | ⟨htake, hd, rfl⟩ | ⟨htake, i, hd, hexec⟩
  · simp [hr] at hr'
  · exact .inl rfl
  · exact .inr (.inl ⟨htake, _, classify_of_illegalOpcode _ hd, rfl⟩)
  · exact .inr (.inl ⟨htake, _, classify_of_reservedField _ hd, rfl⟩)
  · rcases exec_cases hexec with ⟨-, rfl⟩ | ⟨-, hout, rfl⟩ | ⟨-, heff⟩
    · exact .inl rfl
    · exact .inr (.inl ⟨htake, _, classify_of_outOfRange (s := s.advance) hd hout, rfl⟩)
    · exact .inr (.inr ⟨htake, i, hd, heff⟩)

/-- What neither the inputs nor fault entry write changes, without reset, only by the effect of a command. -/
theorem command_of_changed {α : Type} (f : State → α) (hadvance : f s.advance = f s)
    (henter : ∀ c, f (s.advance.enterFault c) = f s) (h : step s = .next t) (hr : s.port.rst = false) (hne : f t ≠ f s) :
    s.TakesCommand ∧ ∃ i, decodeWord s.port.cmd = .instr i ∧ CommandEffect s.advance i t := by
  rcases step_cases_of_no_rst h hr with rfl | ⟨-, c, -, rfl⟩ | hcommand
  · exact absurd hadvance hne
  · exact absurd (henter c) hne
  · exact hcommand

theorem CommandEffect.decode_of_table_ne (h : CommandEffect s i t) (hne : t.table ≠ s.table) :
    ∃ rule, i = .decode rule := by
  cases h with
  | decode rule => exact ⟨rule, rfl⟩
  | nop | clr1d | wr1d | step1d | clr2d | wr2d | step2d => exact absurd rfl hne

theorem CommandEffect.writesGen_of_gen_ne (h : CommandEffect s i t) (hne : t.gen.toList ≠ s.gen.toList) :
    i = .clr1d ∨ i = .step1d ∨ ∃ x v, i = .wr1d x v := by
  cases h with
  | clr1d => exact .inl rfl
  | step1d => exact .inr (.inl rfl)
  | wr1d x v => exact .inr (.inr ⟨x, v, rfl⟩)
  | nop | decode | clr2d | wr2d | step2d => exact absurd rfl hne

theorem CommandEffect.writesGrid_of_grid_ne (h : CommandEffect s i t) (hne : gridRows t.grid ≠ gridRows s.grid) :
    i = .clr2d ∨ i = .step2d ∨ ∃ y x v, i = .wr2d y x v := by
  cases h with
  | clr2d => exact .inl rfl
  | step2d => exact .inr (.inl rfl)
  | wr2d y x v => exact .inr (.inr ⟨y, x, v, rfl⟩)
  | nop | decode | clr1d | wr1d | step1d => exact absurd rfl hne

/-- Settles O51: an edge without reset only consumes its inputs, enters a fault, which writes `FAULT` and `FCAUSE`, or has the
effect of a command, which writes one array. -/
theorem registersAreWrittenOnlyByTheirEvents : Obligations.RegistersAreWrittenOnlyByTheirEvents := by
  intro s t h hr
  refine ⟨fun hne => ?_, fun hne => ?_, fun hne => ?_, fun hne => ?_⟩
  · obtain ⟨htake, i, hd, heff⟩ := command_of_changed (·.table) rfl (fun _ => rfl) h hr hne
    obtain ⟨rule, rfl⟩ := heff.decode_of_table_ne hne
    exact ⟨htake, rule, hd⟩
  · obtain ⟨htake, i, hd, heff⟩ := command_of_changed (·.gen.toList) rfl (fun _ => rfl) h hr hne
    refine ⟨htake, ?_⟩
    simpa [hd] using heff.writesGen_of_gen_ne hne
  · obtain ⟨htake, i, hd, heff⟩ := command_of_changed (gridRows ·.grid) rfl (fun _ => rfl) h hr hne
    refine ⟨htake, ?_⟩
    simpa [hd] using heff.writesGrid_of_grid_ne hne
  · rcases step_cases_of_no_rst h hr with rfl | ⟨htake, c, hc, rfl⟩ | ⟨-, i, -, heff⟩
    · simp at hne
    · exact ⟨htake, c, hc, rfl, rfl⟩
    · obtain ⟨-, -, hfault, hfcause⟩ := heff.frame
      simp [hfault, hfcause] at hne

/-! ## The output ports (10_state.md R21) -/

theorem getLsbD_tableO (s : State) (k : Fin 8) : s.tableO.getLsbD k = s.table[k] := BitVec.getLsb_ofFnLE _ k

theorem getLsbD_genO (s : State) (i : Fin s.params.n) : s.genO.getLsbD i = s.gen[i] := BitVec.getLsb_ofFnLE _ i

/-- Bit `i*C + j` shows the cell `(i, j)`: the two numberings of the cells are Mathlib's `finProdFinEquiv` and its inverse. -/
theorem portCell_finProdFinEquiv {r c : Nat} (i : Fin r) (j : Fin c) : portCell (finProdFinEquiv (i, j)) = (i, j) :=
  finProdFinEquiv.symm_apply_apply (i, j)

theorem getLsbD_gridO (s : State) (i : Fin s.params.r) (j : Fin s.params.c) :
    s.gridO.getLsbD (i.val * s.params.c + j.val) = s.grid[i][j] := by
  have hbit : i.val * s.params.c + j.val = (finProdFinEquiv (i, j)).val := by
    rw [finProdFinEquiv_apply_val, Nat.mul_comm, Nat.add_comm]
  rw [hbit]
  refine (BitVec.getLsb_ofFnLE _ _).trans ?_
  simp only [portCell_finProdFinEquiv]

/-- `TABLE[k]` is rule bit `7 - k`, and `table_o` has `TABLE[k]` as bit `k` (10_state.md R21, 40_rule_decoder.md R55). -/
theorem tableO_setTable_decodeRule (s : State) (rule : Rule) : (s.setTable (decodeRule rule)).tableO = rule.reverse := by
  refine BitVec.eq_of_getLsbD_eq fun k hk => ?_
  rw [getLsbD_tableO _ ⟨k, hk⟩, BitVec.getLsbD_reverse, BitVec.getMsbD_eq_getLsbD]
  simp [decodeRule, hk]

/-- Settles O57: each port is a vector of state bits, and the table of a rule holds the rule's bits the other way round. -/
theorem portsShowTheState : Obligations.PortsShowTheState := by
  refine ⟨getLsbD_tableO, getLsbD_genO, getLsbD_gridO, fun s => ⟨rfl, rfl⟩, ?_⟩
  intro s t rule hf h
  rw [exec_of_commandEffect hf (.decode rule)] at h
  injection h with h
  subst h
  exact tableO_setTable_decodeRule s rule

end Sys2Proof.Machine
end

section
/-! PROOFS of the array statements (spec file 20_memory.md): which array a command writes, what a write done twice or out of range
leaves, sequences of commands of one engine, and the directions in which a grid is drawn. -/

namespace Sys2Proof.Machine

variable {s t : State} {i : Instr}

/-! ## The drawing directions (20_memory.md R28)

A 2D step reads of a grid only which cells are in the block of which. So it commutes with every one-to-one renaming of the cells
that keeps blocks, and the two reversals and the exchange of rows and columns are such renamings. -/

/-- The renaming carries the block of a cell to the block of its image. -/
def KeepsBlocks {r c r' c' : Nat} (σ : Fin r × Fin c ≃ Fin r' × Fin c') : Prop :=
  ∀ p q, σ q ∈ block (σ p).1 (σ p).2 ↔ q ∈ block p.1 p.2

/-- `H` is `G` with its cells renamed: the cell `p` of `H` is the cell `σ p` of `G`. -/
def IsRenamed {r c r' c' : Nat} (σ : Fin r × Fin c ≃ Fin r' × Fin c') (G : Grid r' c') (H : Grid r c) : Prop :=
  ∀ p, gridCellAt H p.1 p.2 = gridCellAt G (σ p).1 (σ p).2

theorem nodup_clipped {m : Nat} (i : Fin m) : (clipped i).Nodup := by
  simp only [clipped]
  split <;> split <;> simp [Fin.ext_iff] <;> omega

theorem nodup_block {r c : Nat} (i : Fin r) (j : Fin c) : (block i j).Nodup := (nodup_clipped i).product (nodup_clipped j)

theorem gridCellAt_step2d {r c : Nat} (G : Grid r c) (i : Fin r) (j : Fin c) :
    gridCellAt (step2d G) i j = nextCell2d G i j := by
  simp

section Renaming

variable {r c r' c' : Nat} {σ : Fin r × Fin c ≃ Fin r' × Fin c'} {G : Grid r' c'} {H : Grid r c}

/-- The block of the image lists the images of the block, perhaps in another order. -/
theorem KeepsBlocks.perm_block (hσ : KeepsBlocks σ) (p : Fin r × Fin c) :
    ((block p.1 p.2).map σ).Perm (block (σ p).1 (σ p).2) := by
  rw [List.perm_ext_iff_of_nodup ((nodup_block _ _).map σ.injective) (nodup_block _ _)]
  intro q'
  obtain ⟨q, rfl⟩ := σ.surjective q'
  rw [List.mem_map_of_injective σ.injective, hσ]

/-- The live cells of a list of cells are the live cells of its image. -/
theorem IsRenamed.liveSum_map (h : IsRenamed σ G H) (cells : List (Fin r × Fin c)) :
    liveSum H cells = liveSum G (cells.map σ) := by
  simp only [liveSum, List.map_map, Function.comp_def, h _]

theorem IsRenamed.neighbourCount_eq (h : IsRenamed σ G H) (hσ : KeepsBlocks σ) (p : Fin r × Fin c) :
    neighbourCount H p.1 p.2 = neighbourCount G (σ p).1 (σ p).2 := by
  have hblock : liveSum G ((block p.1 p.2).map σ) = liveSum G (block (σ p).1 (σ p).2) :=
    ((hσ.perm_block p).map _).sum_eq
  rw [neighbourCount, neighbourCount, h.liveSum_map, hblock, h p]

theorem IsRenamed.step2d (h : IsRenamed σ G H) (hσ : KeepsBlocks σ) : IsRenamed σ (step2d G) (step2d H) := by
  intro p
  rw [gridCellAt_step2d, gridCellAt_step2d, nextCell2d, nextCell2d, h p, h.neighbourCount_eq hσ]

end Renaming

/-- Renaming rows and columns apart keeps blocks if each keeps the indices next to an index. -/
theorem keepsBlocks_prodCongr {r c r' c' : Nat} {ρ : Fin r ≃ Fin r'} {τ : Fin c ≃ Fin c'}
    (hρ : ∀ i a, ρ a ∈ clipped (ρ i) ↔ a ∈ clipped i) (hτ : ∀ j b, τ b ∈ clipped (τ j) ↔ b ∈ clipped j) :
    KeepsBlocks (ρ.prodCongr τ) := by
  rintro ⟨i, j⟩ ⟨a, b⟩
  simp [block, hρ, hτ]

/-- The indices next to an index counted from the other end are the same. -/
theorem revPerm_mem_clipped {m : Nat} (i a : Fin m) : Fin.revPerm a ∈ clipped (Fin.revPerm i) ↔ a ∈ clipped i := by
  simp only [Fin.revPerm_apply, mem_clipped, Fin.val_rev]
  omega

theorem keepsBlocks_prodComm (r c : Nat) : KeepsBlocks (Equiv.prodComm (Fin c) (Fin r)) := by
  rintro ⟨i, j⟩ ⟨a, b⟩
  simp only [Equiv.prodComm_apply, Prod.swap_prod_mk, mem_block]
  exact and_comm

/-- Settles O37: the reversals and the exchange keep blocks, and a step commutes with every renaming that does. -/
theorem stepIgnoresTheDrawingDirection : Obligations.StepIgnoresTheDrawingDirection := by
  intro r c G
  refine ⟨fun H h i j => ?_, fun H h i j => ?_, fun H h i j => ?_⟩
  · have hren : IsRenamed (Fin.revPerm.prodCongr (.refl _)) G H := fun p => by simpa using h p.1 p.2
    simpa using hren.step2d (keepsBlocks_prodCongr revPerm_mem_clipped fun _ _ => .rfl) (i, j)
  · have hren : IsRenamed (Equiv.prodCongr (.refl _) Fin.revPerm) G H := fun p => by simpa using h p.1 p.2
    simpa using hren.step2d (keepsBlocks_prodCongr (fun _ _ => .rfl) revPerm_mem_clipped) (i, j)
  · have hren : IsRenamed (Equiv.prodComm _ _) G H := fun p => by simpa using h p.1 p.2
    simpa using hren.step2d (keepsBlocks_prodComm r c) (i, j)

/-! ## Writes out of range (20_memory.md R30) -/

/-- Settles O43: an index at or past its bound is out of range. -/
theorem writesOutOfRangeFaultAndWriteNothing : Obligations.WritesOutOfRangeFaultAndWriteNothing :=
  ⟨fun x v _ hf hx => exec_of_outOfRange hf (.wr1d x v hx), fun y x v _ hf hyx => exec_of_outOfRange hf (.wr2d y x v hyx)⟩

/-! ## The array a command writes (20_memory.md R39) -/

/-- What fault entry does not write is changed only by the effect of a command. -/
theorem commandEffect_of_changed {α : Type} (f : State → α) (henter : f (s.enterFault .indexOutOfRange) = f s)
    (h : exec i s = .next t) (hne : f t ≠ f s) : CommandEffect s i t := by
  rcases exec_cases h with ⟨-, rfl⟩ | ⟨-, -, rfl⟩ | ⟨-, heff⟩
  · exact absurd rfl hne
  · exact absurd henter hne
  · exact heff

/-- A command that changes the fault status has an index out of range. -/
theorem outOfRange_of_fault_changed (h : exec i s = .next t) (hne : t.fault ≠ s.fault ∨ t.fcause ≠ s.fcause) :
    OutOfRange s i ∧ t = s.enterFault .indexOutOfRange := by
  rcases exec_cases h with ⟨-, rfl⟩ | ⟨-, hout, rfl⟩ | ⟨-, heff⟩
  · simp at hne
  · exact ⟨hout, rfl⟩
  · obtain ⟨-, -, hfault, hfcause⟩ := heff.frame
    simp [hfault, hfcause] at hne

/-- Settles O45: a change of an array is the effect of a command that writes it, and a change of the fault status is fault entry. -/
theorem commandsWriteOnlyTheirOwnArray : Obligations.CommandsWriteOnlyTheirOwnArray := by
  intro i s t h
  obtain ⟨hparams, hpins⟩ := exec_keeps_params_pins h
  refine ⟨hparams, hpins, fun hne => ?_, fun hne => ?_, fun hne => ?_, fun hne => ?_⟩
  · exact (commandEffect_of_changed (·.table) rfl h hne).decode_of_table_ne hne
  · exact (commandEffect_of_changed (·.gen.toList) rfl h hne).writesGen_of_gen_ne hne
  · exact (commandEffect_of_changed (gridRows ·.grid) rfl h hne).writesGrid_of_grid_ne hne
  · obtain ⟨hout, ht⟩ := outOfRange_of_fault_changed h hne
    exact ⟨hout.wellFormed_eq_false, ht⟩

/-! ## Writing twice (20_memory.md R33) -/

theorem State.writeGen_writeGen (s : State) (k : Fin s.params.n) (v : Cell) :
    (s.writeGen k v).writeGen k v = s.writeGen k v := by
  simp [State.writeGen, State.setGen]

theorem State.writeGrid_writeGrid (s : State) (ij : Fin s.params.r × Fin s.params.c) (v : Cell) :
    (s.writeGrid ij v).writeGrid ij v = s.writeGrid ij v := by
  simp [State.writeGrid, State.setGrid]

/-- The effect of a command that is not a step, on a state that already shows it, is that state. -/
theorem CommandEffect.again (h : CommandEffect s i t) (h1 : i ≠ .step1d) (h2 : i ≠ .step2d) : CommandEffect t i t := by
  cases h with
  | nop => exact .nop
  | decode rule => exact .decode rule
  | clr1d => exact .clr1d
  | clr2d => exact .clr2d
  | wr1d x v hx =>
    exact (s.writeGen_writeGen ⟨x.toNat, hx⟩ v).subst (motive := CommandEffect _ _)
      (.wr1d (s := s.writeGen ⟨x.toNat, hx⟩ v) x v hx)
  | wr2d y x v hy hx =>
    exact (s.writeGrid_writeGrid (⟨y.toNat, hy⟩, ⟨x.toNat, hx⟩) v).subst (motive := CommandEffect _ _)
      (.wr2d (s := s.writeGrid (⟨y.toNat, hy⟩, ⟨x.toNat, hx⟩) v) y x v hy hx)
  | step1d => exact absurd rfl h1
  | step2d => exact absurd rfl h2

/-- Settles O46: a block frozen before or by the command ignores the second one, and otherwise the second effect changes
nothing. -/
theorem writesAreIdempotent : Obligations.WritesAreIdempotent := by
  intro i s t h1 h2 h
  rcases exec_cases h with ⟨hf, rfl⟩ | ⟨-, -, rfl⟩ | ⟨hf, heff⟩
  · exact exec_of_fault i hf
  · exact exec_of_fault i rfl
  · obtain ⟨-, -, hfault, -⟩ := heff.frame
    exact exec_of_commandEffect (hfault.trans hf) (heff.again h1 h2)

/-! ## Sequences of commands of one engine (20_memory.md R39) -/

/-- A run of `k + 1` steps that answers a state has a first step and a run of `k` from there. -/
theorem run_succ_eq_next (M : Host.Core) {k : Nat} {s t : M.State} (h : M.run (k + 1) s = .next t) :
    ∃ s', M.step s = .next s' ∧ M.run k s' = .next t := by
  rw [Host.Core.run] at h
  cases hs : M.step s with
  | next s' => exact ⟨s', rfl, by simpa only [hs] using h⟩
  | fault r => simp [hs] at h
  | refused r => simp [hs] at h

theorem State.NoResetScheduled.port (h : s.NoResetScheduled) : s.port.rst = false := by
  rcases port_mem_or_idle s with hmem | hidle
  · exact h _ hmem
  · rw [hidle]; rfl

/-- A command taken at the next edge is one that the schedule allows. -/
theorem State.SchedulesOnly.port {p : Instr → Bool} (h : s.SchedulesOnly p) (htake : s.TakesCommand)
    (hd : decodeWord s.port.cmd = .instr i) : i = .nop ∨ p i = true := by
  obtain ⟨-, -, hvalid⟩ := htake
  rcases port_mem_or_idle s with hmem | hidle
  · exact h _ hmem hvalid i hd
  · rw [hidle] at hvalid; exact absurd hvalid (by decide)

/-- What neither the inputs, fault entry nor a command of the kind `p` writes is the same after any number of edges, if nothing
but such commands is scheduled. -/
theorem run_keeps {α : Type} (f : State → α) {p : Instr → Bool} (hadvance : ∀ s, f s.advance = f s)
    (henter : ∀ s c, f (s.enterFault c) = f s)
    (heffect : ∀ {s t i}, CommandEffect s i t → i = .nop ∨ p i = true → f t = f s)
    {k : Nat} {s t : State} (hrst : s.NoResetScheduled) (honly : s.SchedulesOnly p) (h : core.run k s = .next t) :
    f t = f s := by
  induction k generalizing s with
  | zero => injection h with h; rw [h]
  | succ k ih =>
    obtain ⟨s', hstep, hrun⟩ := run_succ_eq_next core h
    obtain ⟨-, hpins⟩ := step_keeps_params_and_consumes_pin hstep
    have hsub : ∀ e ∈ s'.pins, e ∈ s.pins := fun e he => List.mem_of_mem_tail (hpins ▸ he)
    have hfirst : f s' = f s := by
      by_contra hne
      obtain ⟨htake, i, hd, heff⟩ :=
        command_of_changed f (hadvance s) (fun c => (henter _ c).trans (hadvance s)) hstep hrst.port hne
      exact hne ((heffect heff (honly.port htake hd)).trans (hadvance s))
    calc f t = f s' := ih (fun e he => hrst e (hsub e he)) (fun e he => honly e (hsub e he)) hrun
      _ = f s := hfirst

theorem CommandEffect.grid_of_engine1D (h : CommandEffect s i t) (hi : i = .nop ∨ engine1D i = true) :
    gridRows t.grid = gridRows s.grid := by
  cases h with
  | nop | decode | clr1d | wr1d | step1d => rfl
  | clr2d | wr2d | step2d => simp [engine1D] at hi

theorem CommandEffect.table_gen_of_engine2D (h : CommandEffect s i t) (hi : i = .nop ∨ engine2D i = true) :
    (t.table, t.gen.toList) = (s.table, s.gen.toList) := by
  cases h with
  | nop | clr2d | wr2d | step2d => rfl
  | decode | clr1d | wr1d | step1d => simp [engine2D] at hi

/-- Settles O53: by induction on the number of edges, each of which is taken by no command of the other engine. -/
theorem engineCommandsLeaveTheOtherEngine : Obligations.EngineCommandsLeaveTheOtherEngine := by
  intro k s t hrst h
  refine ⟨?_, fun honly => ?_, fun honly => ?_⟩
  · have hall : s.SchedulesOnly fun _ => true := fun _ _ _ _ _ => .inr rfl
    exact run_keeps (·.params) (fun _ => rfl) (fun _ _ => rfl) (fun heff _ => heff.frame.1) hrst hall h
  · exact run_keeps (gridRows ·.grid) (fun _ => rfl) (fun _ _ => rfl) CommandEffect.grid_of_engine1D hrst honly h
  · exact Prod.mk.inj <|
      run_keeps (fun s => (s.table, s.gen.toList)) (fun _ => rfl) (fun _ _ => rfl) CommandEffect.table_gen_of_engine2D
        hrst honly h

end Sys2Proof.Machine
end

section
/-! PROOFS of the encoding statements (spec file 30_encoding.md): the fields of a word, the decoder against the encoder, the mask
table and `classify`, the assembler's words, and that an edge always has an effect. -/

namespace Sys2Proof

/-! ## The encoder's word under the decoder (30_encoding.md R41 to R45) -/

theorem opField_encode : ∀ i : Instr, opField (encode i) = i.opcode.code
  | .nop => Laws.EncodesItsOpcode.nop
  | .decode rule => Laws.EncodesItsOpcode.decode rule
  | .clr1d => Laws.EncodesItsOpcode.clr1d
  | .wr1d x v => Laws.EncodesItsOpcode.wr1d x v
  | .step1d => Laws.EncodesItsOpcode.step1d
  | .clr2d => Laws.EncodesItsOpcode.clr2d
  | .wr2d y x v => Laws.EncodesItsOpcode.wr2d y x v
  | .step2d => Laws.EncodesItsOpcode.step2d

/-- The encoder leaves a 0 in every bit that the row reserves (30_encoding.md R44). -/
theorem reservedZero_encode (i : Instr) : i.opcode.reservedZero (encode i) = true := by
  cases i with
  | nop | decode | clr1d | step1d | clr2d | step2d => simp [Instr.opcode, Opcode.reservedZero, encode]
  | wr1d x v | wr2d y x v => simpa [Instr.opcode, Opcode.reservedZero, encode] using cellField_lt v

theorem valueBit_packFields_cellField (op : BitVec 4) (y x : Index) (v : Cell) :
    valueBit (packFields op y x (cellField v)) = v := by
  rw [valueBit, dField_packFields, getLsbD_cellField]

/-- The operands come back from the encoder's fields (30_encoding.md R42). -/
theorem operands_encode (i : Instr) : i.opcode.operands (encode i) = i := by
  cases i with
  | nop | clr1d | step1d | clr2d | step2d => rfl
  | decode rule => simp [Instr.opcode, Opcode.operands, encode]
  | wr1d x v | wr2d y x v => simp [Instr.opcode, Opcode.operands, encode, valueBit_packFields_cellField]

/-- Settles O1: the encoder's word has the command's own row in `OP`, 0 in the reserved fields and the operands in the others. -/
theorem encodeThenDecodeGivesTheCommand : Obligations.EncodeThenDecodeGivesTheCommand := fun i =>
  (decodeWord_eq_instr_iff _ _).2
    ⟨i.opcode, (ofCode_eq_some_iff _ _).2 (opField_encode i).symm, reservedZero_encode i, operands_encode i⟩

/-- Settles O5: each example is the encoder's word of its command, and O1 decodes it. -/
theorem workedExampleWordsDecode : Obligations.WorkedExampleWordsDecode := by
  have decodes := encodeThenDecodeGivesTheCommand
  exact ⟨decodes .nop, decodes (.decode 4), decodes .clr1d, decodes (.wr1d 3 true), decodes .step1d, decodes .clr2d,
    decodes (.wr2d 1 2 true), decodes .step2d⟩

/-! ## The decoded word under the encoder (30_encoding.md R44, R45) -/

/-- A field `D` with `D[7:1]` = 0 is the field of its value bit (30_encoding.md R42). -/
theorem cellField_valueBit {w : Word} (h : (dField w).toNat < 2) : cellField (valueBit w) = dField w := by
  unfold valueBit
  revert h
  generalize dField w = d
  revert d
  decide

/-- A word of the row `o` with its reserved fields 0 is rebuilt from the operands of the row. -/
theorem encode_operands {w : Word} {o : Opcode} (hop : opField w = o.code) (hz : o.reservedZero w = true) :
    encode (o.operands w) = w := by
  conv_rhs => rw [← packFields_fields w, hop]
  cases o with
  | nop | clr1d | step1d | clr2d | step2d =>
    simp only [Opcode.reservedZero, Bool.and_eq_true, beq_iff_eq] at hz
    obtain ⟨⟨hy, hx⟩, hd⟩ := hz
    rw [hy, hx, hd]; rfl
  | decode =>
    simp only [Opcode.reservedZero, Bool.and_eq_true, beq_iff_eq] at hz
    obtain ⟨hy, hx⟩ := hz
    rw [hy, hx]; rfl
  | wr1d =>
    simp only [Opcode.reservedZero, Bool.and_eq_true, beq_iff_eq, decide_eq_true_eq] at hz
    obtain ⟨hy, hd⟩ := hz
    rw [hy, ← cellField_valueBit hd]; rfl
  | wr2d =>
    simp only [Opcode.reservedZero, decide_eq_true_eq] at hz
    rw [← cellField_valueBit hz]; rfl

/-- Settles O2: the decoder accepts a word only if `OP` is the row's and the reserved fields are 0, and then the operands hold all
that is left of it. -/
theorem decodeThenEncodeGivesTheWord : Obligations.DecodeThenEncodeGivesTheWord := by
  intro w i h
  obtain ⟨o, ho, hz, rfl⟩ := (decodeWord_eq_instr_iff w i).1 h
  exact encode_operands ((ofCode_eq_some_iff _ _).1 ho).symm hz

/-! ## The mask table (30_encoding.md R44) -/

@[simp] theorem opcode_operands (o : Opcode) (w : Word) : (o.operands w).opcode = o := by cases o <;> rfl

theorem decodeWord_eq_instr_operands_iff (w : Word) (o : Opcode) :
    decodeWord w = .instr (o.operands w) ↔ opField w = o.code ∧ o.reservedZero w = true := by
  rw [decodeWord_eq_instr_iff]
  constructor
  · rintro ⟨o', ho', hz, heq⟩
    have hrow : o' = o := by simpa using congrArg Instr.opcode heq
    subst hrow
    exact ⟨((ofCode_eq_some_iff _ _).1 ho').symm, hz⟩
  · rintro ⟨hop, hz⟩
    exact ⟨o, (ofCode_eq_some_iff _ _).2 hop.symm, hz, rfl⟩

/-- Settles O3: the mask and the decoder both ask for the row's `OP` and for 0 in the row's reserved fields. -/
theorem rowInstanceIffMaskMatches : Obligations.RowInstanceIffMaskMatches :=
  ⟨rfl, fun w o => (decodeWord_eq_instr_operands_iff w o).trans (and_mask_eq_pattern_iff w o).symm, and_mask_eq_pattern_iff⟩

/-! ## The word as a number (30_encoding.md R41) -/

/-- Settles O4: a word is its four fields packed, and a packed word has that number. -/
theorem fieldsMakeUpTheWord : Obligations.FieldsMakeUpTheWord := fun w => by
  conv_lhs => rw [← packFields_fields w]
  exact toNat_packFields ..

/-- The word of fields given as numbers in range, as a number (30_encoding.md R41). -/
theorem packFields_ofNat (op : BitVec 4) {y x d : Nat} (hy : y ≤ 1023) (hx : x ≤ 1023) (hd : d ≤ 255) :
    packFields op (BitVec.ofNat 10 y) (BitVec.ofNat 10 x) (BitVec.ofNat 8 d) =
      BitVec.ofNat 32 (op.toNat * 2 ^ 28 + y * 2 ^ 18 + x * 2 ^ 8 + d) := by
  have hop := op.isLt
  apply BitVec.eq_of_toNat_eq
  simp only [toNat_packFields, BitVec.toNat_ofNat]
  omega

theorem cellField_beq_one {v : Nat} (hv : v ≤ 1) : cellField (v == 1) = BitVec.ofNat 8 v := by
  interval_cases v <;> rfl

end Sys2Proof

namespace Sys2Proof.Machine

/-! ## `classify` against the decoder (30_encoding.md R47) -/

/-- Settles O6, by the decoder's three answers: `classify` faults on a rejection and checks the index operands of a command. -/
theorem classifyExecutesTheWellFormed : Obligations.ClassifyExecutesTheWellFormed := by
  intro p w i
  cases hd : decodeWord w with
  | illegalOpcode => simp [classify_of_illegalOpcode p hd]
  | reservedField => simp [classify_of_reservedField p hd]
  | instr j =>
    rw [classify_of_instr p hd]
    by_cases hij : j = i
    · subst hij
      cases hwf : j.wellFormed p <;> simp
    · cases hwf : j.wellFormed p <;> simp [hij]

/-! ## The assembler's words (30_encoding.md R50) -/

theorem assemble_decode {rule : Nat} (h : rule ≤ 255) :
    (AsmLine.decode rule).assemble = some (encode (.decode (BitVec.ofNat 8 rule))) := by
  have hword : encode (.decode (BitVec.ofNat 8 rule)) = BitVec.ofNat 32 (1 * 2 ^ 28 + 0 * 2 ^ 18 + 0 * 2 ^ 8 + rule) :=
    packFields_ofNat 1 (by decide) (by decide) h
  rw [hword]
  simp [AsmLine.assemble, h]

theorem assemble_wr1d {k v : Nat} (hk : k ≤ 1023) (hv : v ≤ 1) :
    (AsmLine.wr1d k v).assemble = some (encode (.wr1d (BitVec.ofNat 10 k) (v == 1))) := by
  have hword : encode (.wr1d (BitVec.ofNat 10 k) (v == 1)) = BitVec.ofNat 32 (3 * 2 ^ 28 + 0 * 2 ^ 18 + k * 2 ^ 8 + v) := by
    rw [encode, cellField_beq_one hv]
    exact packFields_ofNat 3 (by decide) hk (by omega)
  rw [hword]
  simp [AsmLine.assemble, hk, hv]

theorem assemble_wr2d {k l v : Nat} (hk : k ≤ 1023) (hl : l ≤ 1023) (hv : v ≤ 1) :
    (AsmLine.wr2d k l v).assemble = some (encode (.wr2d (BitVec.ofNat 10 k) (BitVec.ofNat 10 l) (v == 1))) := by
  have hword : encode (.wr2d (BitVec.ofNat 10 k) (BitVec.ofNat 10 l) (v == 1)) =
      BitVec.ofNat 32 (6 * 2 ^ 28 + k * 2 ^ 18 + l * 2 ^ 8 + v) := by
    rw [encode, cellField_beq_one hv]
    exact packFields_ofNat 6 hk hl (by omega)
  rw [hword]
  simp [AsmLine.assemble, hk, hl, hv]

/-- Settles O7: a line in range sums its fields at their places, which is the packed word; a line out of range fails the range
check. -/
theorem assembledLinesEncodeTheirCommands : Obligations.AssembledLinesEncodeTheirCommands :=
  ⟨fun _ => assemble_decode, fun _ h => if_neg (by omega), fun _ _ => assemble_wr1d, fun _ _ h => if_neg (by omega),
    fun _ _ _ => assemble_wr2d, fun _ _ _ h => if_neg (by omega), rfl, rfl, rfl, rfl, rfl⟩

/-! ## Every edge has an effect (30_encoding.md R47 to R49) -/

/-- Every command has its index operands outside or inside its array, and inside it has an effect. -/
theorem outOfRange_or_commandEffect (s : State) (i : Instr) : OutOfRange s i ∨ ∃ t, CommandEffect s i t := by
  cases i with
  | nop => exact .inr ⟨_, .nop⟩
  | decode rule => exact .inr ⟨_, .decode rule⟩
  | clr1d => exact .inr ⟨_, .clr1d⟩
  | wr1d x v =>
    rcases Nat.lt_or_ge x.toNat s.params.n with hx | hx
    · exact .inr ⟨_, .wr1d x v hx⟩
    · exact .inl (.wr1d x v hx)
  | step1d => exact .inr ⟨_, .step1d⟩
  | clr2d => exact .inr ⟨_, .clr2d⟩
  | wr2d y x v =>
    by_cases hyx : s.params.r ≤ y.toNat ∨ s.params.c ≤ x.toNat
    · exact .inl (.wr2d y x v hyx)
    · obtain ⟨hy, hx⟩ := not_or.1 hyx
      exact .inr ⟨_, .wr2d y x v (Nat.lt_of_not_le hy) (Nat.lt_of_not_le hx)⟩
  | step2d => exact .inr ⟨_, .step2d⟩

theorem exec_answers_next (s : State) (i : Instr) : ∃ t, exec i s = .next t := by
  cases hf : s.fault with
  | true => exact ⟨s, exec_of_fault i hf⟩
  | false =>
    rcases outOfRange_or_commandEffect s i with hout | ⟨t, heff⟩
    · exact ⟨_, exec_of_outOfRange hf hout⟩
    · exact ⟨t, exec_of_commandEffect hf heff⟩

theorem step_answers_next_of_takesCommand {s : State} (h : s.TakesCommand) : ∃ t, step s = .next t := by
  cases hd : decodeWord s.port.cmd with
  | illegalOpcode => exact ⟨_, step_of_illegalOpcode h hd⟩
  | reservedField => exact ⟨_, step_of_reservedField h hd⟩
  | instr i => rw [step_of_instr h hd]; exact exec_answers_next _ i

/-- Settles O15: by the priority list of an edge, of which each entry answers a next state. -/
theorem everyStepAnswersANextState : Obligations.EveryStepAnswersANextState := by
  intro s
  cases hr : s.port.rst with
  | true => exact ⟨_, step_of_rst hr⟩
  | false =>
    by_cases hign : s.fault = true ∨ s.port.cmdValid = false
    · exact ⟨_, step_of_ignored hr hign⟩
    · obtain ⟨hf, hv⟩ := not_or.1 hign
      exact step_answers_next_of_takesCommand ⟨hr, eq_false_of_ne_true hf, eq_true_of_ne_false hv⟩

/-- Settles O13: an edge without a command is ignored, in a frozen block as well. -/
theorem idleEdgeChangesNothing : Obligations.IdleEdgeChangesNothing := fun _ hr hv => step_of_ignored hr (.inr hv)

end Sys2Proof.Machine
end

section
/-! PROOFS of the Rule Decoder's statements (spec file 40_rule_decoder.md): the table's entries are the rule's bits, so a lookup is a
rule bit, and rules and tables determine each other. -/

namespace Sys2Proof.Machine

/-! ## The entries of a rule's table (40_rule_decoder.md R55) -/

/-- `T[k] = rule[7 - k]`. -/
@[simp] theorem getElem_decodeRule (rule : Rule) {k : Nat} (hk : k < 8) : (decodeRule rule)[k] = rule.getLsbD (7 - k) :=
  Vector.getElem_ofFn hk

/-- A rule bit as a number. -/
theorem toNat_getLsbD (rule : Rule) (j : Nat) : (rule.getLsbD j).toNat = rule.toNat / 2 ^ j % 2 := by
  rw [← BitVec.testBit_toNat, Nat.toNat_testBit]

/-- Settles O17: the entry is a bit of the rule by the definition of `decodeRule`, and a bit is a quotient's remainder. -/
theorem tableEntriesAreTheRuleBits : Obligations.TableEntriesAreTheRuleBits := fun rule k =>
  have hbit : (decodeRule rule)[k] = rule.getLsbD (7 - k) := getElem_decodeRule rule k.isLt
  ⟨hbit, by rw [hbit, toNat_getLsbD]⟩

/-- Settles O21: the table DECODE loads is the rule's, and `exec` replaces no other field. -/
theorem decodeLoadsTheTable : Obligations.DecodeLoadsTheTable := fun rule _ hf =>
  ⟨decodeRule rule, exec_of_commandEffect hf (.decode rule), fun k => getElem_decodeRule rule k.isLt⟩

/-! ## The lookup (40_rule_decoder.md R56) -/

/-- The table is read backwards, so the two reversals `7 - v` cancel. -/
theorem lookup_decodeRule (rule : Rule) {v : Nat} (hv : v ≤ 7) : lookup (decodeRule rule) v = rule.getLsbD v := by
  rw [lookup, getElem_decodeRule, Nat.sub_sub_self hv]

/-- A 1D step with a rule's table gives an interior cell the rule bit its neighbourhood selects. -/
theorem getElem_step1d_decodeRule {n i : Nat} (rule : Rule) (g : Generation n) (h : Interior n i) :
    (step1d (decodeRule rule) g)[i] = rule.getLsbD (neighbourhood g i h) := by
  rw [getElem_step1d, nextCell1d_interior h, lookup_decodeRule rule (neighbourhood_le g i h)]

/-- Settles O18: three cells have a value of at most 7, for which the lookup is the rule bit. -/
theorem lookupIsTheRuleBit : Obligations.LookupIsTheRuleBit := by
  refine ⟨fun rule left self right => ?_, fun _ rule g _ h => getElem_step1d_decodeRule rule g h⟩
  have hv : 4 * left.toNat + 2 * self.toNat + right.toNat ≤ 7 := by
    have := left.toNat_le; have := self.toNat_le; have := right.toNat_le
    omega
  have hlookup := lookup_decodeRule rule hv
  exact ⟨hlookup, hlookup⟩

/-- Bit `4*left + 2*self + right` of rule 90 does not depend on `self`. -/
theorem getLsbD_ninety (left self right : Cell) :
    (90 : Rule).getLsbD (4 * left.toNat + 2 * self.toNat + right.toNat) = xor left right := by
  revert left self right
  decide

/-- Settles O25: the cell is a bit of rule 90. -/
theorem ruleNinetyIsExclusiveOr : Obligations.RuleNinetyIsExclusiveOr := fun _ g i h =>
  (getElem_step1d_decodeRule 90 g h).trans (getLsbD_ninety g[i - 1] g[i] g[i + 1])

/-! ## `encode`, the inverse of `decode` (40_rule_decoder.md R57) -/

/-- Each entry of a table counts 0 or 1. -/
theorem toNat_entries_le_one (T : Table) :
    T[0].toNat ≤ 1 ∧ T[1].toNat ≤ 1 ∧ T[2].toNat ≤ 1 ∧ T[3].toNat ≤ 1 ∧ T[4].toNat ≤ 1 ∧ T[5].toNat ≤ 1 ∧
      T[6].toNat ≤ 1 ∧ T[7].toNat ≤ 1 := by
  simp only [Bool.toNat_le, and_self]

/-- The sum of the weighted entries is at most 255, so eight bits hold it. -/
theorem toNat_encodeRule (T : Table) :
    (encodeRule T).toNat = T[0].toNat * 128 + T[1].toNat * 64 + T[2].toNat * 32 + T[3].toNat * 16 + T[4].toNat * 8 +
      T[5].toNat * 4 + T[6].toNat * 2 + T[7].toNat := by
  have hle := toNat_entries_le_one T
  refine .trans ?_ (Nat.mod_eq_of_lt (b := 2 ^ 8) (by omega))
  rw [encodeRule, BitVec.toNat_ofNat, ← List.ofFn_eq_map, List.sum_ofFn, Fin.sum_univ_eight]
  simp

/-- Bit `7 - k` of the encoded table is entry `k`: the entries before `k` weigh multiples of `2^(8-k)`, and those after `k` sum to
less than `2^(7-k)`. -/
theorem getLsbD_encodeRule (T : Table) {k : Nat} (hk : k < 8) : (encodeRule T).getLsbD (7 - k) = T[k] := by
  have hle := toNat_entries_le_one T
  have toNat_injective : Function.Injective Bool.toNat := Function.LeftInverse.injective Bool.ofNat_toNat
  apply toNat_injective
  rw [toNat_getLsbD, toNat_encodeRule]
  interval_cases k <;> omega

theorem decodeRule_encodeRule (T : Table) : decodeRule (encodeRule T) = T := by
  ext k hk
  rw [getElem_decodeRule, getLsbD_encodeRule T hk]

/-- Bit `j` of a rule is entry `7 - j` of its table, so the table determines the rule. -/
theorem decodeRule_injective : Function.Injective decodeRule := by
  intro a b h
  refine BitVec.eq_of_getLsbD_eq fun j hj => ?_
  rw [← lookup_decodeRule a (Nat.le_of_lt_succ hj), h, lookup_decodeRule b (Nat.le_of_lt_succ hj)]

theorem encodeRule_decodeRule (rule : Rule) : encodeRule (decodeRule rule) = rule :=
  decodeRule_injective (decodeRule_encodeRule _)

/-- Settles O19: `encode` gives every table a rule, and no two rules have one table. -/
theorem rulesAndTablesAreInBijection : Obligations.RulesAndTablesAreInBijection :=
  ⟨toNat_encodeRule, encodeRule_decodeRule, decodeRule_encodeRule, decodeRule_injective,
    fun T => ⟨encodeRule T, decodeRule_encodeRule T⟩⟩

/-! ## `decode` of an integer (40_rule_decoder.md R59) -/

theorem decodeRuleInt_of_outside {k : Int} (h : k < 0 ∨ 255 < k) : decodeRuleInt k = none := if_neg (by omega)

theorem decodeRuleInt_toNat (rule : Rule) : decodeRuleInt rule.toNat = some (decodeRule rule) := by
  have hrange : 0 ≤ (rule.toNat : Int) ∧ (rule.toNat : Int) ≤ 255 := by
    have := rule.isLt
    omega
  rw [decodeRuleInt, if_pos hrange, BitVec.ofInt_natCast, BitVec.ofNat_toNat, BitVec.setWidth_eq]

/-- Settles O20: the range check refuses the integers outside, and within it the word of the integer is the rule. -/
theorem integersOutsideTheRuleRangeAreRefused : Obligations.IntegersOutsideTheRuleRangeAreRefused :=
  ⟨fun _ => decodeRuleInt_of_outside, decodeRuleInt_toNat⟩

end Sys2Proof.Machine
end

section
/-! PROOFS of the 1D Stepper's statements (spec file 41_stepper_1d.md): the next generation cell by cell, its clamped boundary, the
short generations, and STEP1D. -/

namespace Sys2Proof.Machine

/-! ## A cell of the next generation (41_stepper_1d.md R66) -/

/-- An interior cell is the table entry its old neighbourhood selects. -/
theorem getElem_step1d_of_interior {n i : Nat} (T : Table) (g : Generation n) (h : Interior n i) :
    (step1d T g)[i] = lookup T (neighbourhood g i h) := by
  rw [getElem_step1d, nextCell1d_interior h]

/-- A boundary cell is clamped to 0 (41_stepper_1d.md R64). -/
theorem getElem_step1d_of_not_interior {n i : Nat} (T : Table) (g : Generation n) (hi : i < n) (h : ¬ Interior n i) :
    (step1d T g)[i] = false := by
  rw [getElem_step1d, nextCell1d_boundary h]

/-- Settles O22, by whether the cell is interior: `i <= n - 2` says so too for an `i >= 1`, also where `n - 2` truncates. -/
theorem nextGenerationCellByCell : Obligations.NextGenerationCellByCell := by
  refine fun n T g => ⟨Vector.length_toList, fun i hi => ?_⟩
  split
  case isTrue h => exact getElem_step1d_of_interior T g (by omega)
  case isFalse h => exact getElem_step1d_of_not_interior T g hi (by omega)

/-! ## The boundary (41_stepper_1d.md R64) -/

/-- Settles O23: indices 0 and `n - 1` are not interior, and 1 and `n - 2` are, with the boundary cells as neighbours. -/
theorem boundaryCellsAreClampedButRead : Obligations.BoundaryCellsAreClampedButRead := by
  refine fun n rule g => ⟨fun hn => ⟨?_, ?_⟩, fun hn => ⟨?_, ?_⟩⟩
  · exact getElem_step1d_of_not_interior _ g hn (by omega)
  · exact getElem_step1d_of_not_interior _ g (by omega) (by omega)
  · exact getElem_step1d_decodeRule rule g (by omega)
  · -- With `n` as `m + 3` the neighbours of `n - 2` are `n - 3` and `n - 1` by computation.
    obtain ⟨m, rfl⟩ := Nat.exists_eq_add_of_le' hn
    exact getElem_step1d_decodeRule rule g (by omega)

/-! ## Short generations (41_stepper_1d.md R65) -/

/-- Up to two cells there is no interior index. -/
theorem step1d_of_le_two {n : Nat} (T : Table) (g : Generation n) (hn : n ≤ 2) :
    step1d T g = Vector.replicate n false := by
  ext i hi
  rw [getElem_step1d_of_not_interior T g hi (by omega), Vector.getElem_replicate]

/-- Among three cells index 1 alone is interior. -/
theorem step1d_three (T : Table) (g : Generation 3) :
    step1d T g = #v[false, lookup T (neighbourhood g 1 (by decide)), false] := by
  ext i hi
  match i, hi with
  | 0, hi => exact getElem_step1d_of_not_interior T g hi (by decide)
  | 1, _ => exact getElem_step1d_of_interior T g (by decide)
  | 2, hi => exact getElem_step1d_of_not_interior T g hi (by decide)

/-- Settles O24: one or two cells are all boundary, and three have one interior cell. -/
theorem shortGenerationsHaveNoInterior : Obligations.ShortGenerationsHaveNoInterior := fun T =>
  ⟨fun g => step1d_of_le_two T g (by decide), fun g => step1d_of_le_two T g (by decide), step1d_three T⟩

/-! ## STEP1D (41_stepper_1d.md R68, R69) -/

/-- A running block steps its generation by its table and changes nothing else. -/
theorem exec_step1d_of_running {s : State} (hf : s.fault = false) :
    exec .step1d s = .next (s.setGen (step1d s.table s.gen)) :=
  exec_of_commandEffect hf .step1d

/-- Settles O26: the new generation is `step1d` of the old one, with its interior and boundary cells. -/
theorem step1dAdvancesTheGeneration : Obligations.Step1dAdvancesTheGeneration := fun s hf =>
  ⟨step1d s.table s.gen, exec_step1d_of_running hf, fun _ h => getElem_step1d_of_interior s.table s.gen h,
    fun i hi => getElem_step1d_of_not_interior s.table s.gen i.isLt (by omega)⟩

/-- Settles O27: the table after reset is that of rule 0, and a step with that table clears the generation. -/
theorem stepWithRuleZeroClearsTheGeneration : Obligations.StepWithRuleZeroClearsTheGeneration := by
  refine ⟨resetWith_table, fun s hf htable => ?_⟩
  have hgen : step1d s.table s.gen = Vector.replicate s.params.n false := by rw [htable, step1d_decodeRule_zero]
  have hstep := exec_step1d_of_running hf
  rwa [hgen] at hstep

end Sys2Proof.Machine
end

section
/-! PROOFS of the 2D Stepper's statements (spec file 42_stepper_2d.md): the clipped block, the neighbour count, the transition,
STEP2D, and the document's three patterns. -/

namespace Sys2Proof.Machine

/-! ## The clipped block (42_stepper_2d.md R73)

The block of a cell is the product of the indices next to its row and of those next to its column. -/

theorem block_eq_product {r c : Nat} (i : Fin r) (j : Fin c) : block i j = clipped i ×ˢ clipped j := rfl

theorem length_block {r c : Nat} (i : Fin r) (j : Fin c) :
    (block i j).length = (clipped i).length * (clipped j).length :=
  List.length_product ..

theorem length_clipped {m : Nat} (i : Fin m) :
    (clipped i).length = (if 1 ≤ i.val then 1 else 0) + 1 + (if i.val + 1 < m then 1 else 0) := by
  simp only [clipped]
  split <;> split <;> rfl

theorem length_clipped_le_three {m : Nat} (i : Fin m) : (clipped i).length ≤ 3 := by
  rw [length_clipped]
  split <;> split <;> decide

theorem length_clipped_of_inner {m : Nat} {i : Fin m} (hlow : 1 ≤ i.val) (hhigh : i.val + 2 ≤ m) :
    (clipped i).length = 3 := by
  rw [length_clipped, if_pos hlow, if_pos (by omega)]

theorem length_clipped_of_end {m : Nat} {i : Fin m} (hm : 2 ≤ m) (hend : i.val = 0 ∨ i.val + 1 = m) :
    (clipped i).length = 2 := by
  rw [length_clipped]
  rcases hend with hlow | hhigh
  · rw [if_neg (by omega), if_pos (by omega)]
  · rw [if_pos (by omega), if_neg (by omega)]

/-- With one row there is one row next to it, itself; so with one column. -/
theorem clipped_of_one (i : Fin 1) : clipped i = [i] := by
  obtain rfl : i = 0 := Subsingleton.elim i 0
  rfl

theorem self_mem_block {r c : Nat} (i : Fin r) (j : Fin c) : (i, j) ∈ block i j := by
  rw [mem_block]
  omega

theorem length_block_le_nine {r c : Nat} (i : Fin r) (j : Fin c) : (block i j).length ≤ 9 :=
  length_block i j ▸ Nat.mul_le_mul (length_clipped_le_three i) (length_clipped_le_three j)

theorem length_block_le_three {r c : Nat} (i : Fin r) (j : Fin c) (h : r = 1 ∨ c = 1) : (block i j).length ≤ 3 := by
  rw [length_block]
  rcases h with rfl | rfl
  · simpa [clipped_of_one] using length_clipped_le_three j
  · simpa [clipped_of_one] using length_clipped_le_three i

/-- Settles O28: the block is the product of two runs of indices, of 3 inside, 2 at an end and 1 in a dimension of 1. -/
theorem blockIsTheClippedNeighbourhood : Obligations.BlockIsTheClippedNeighbourhood := by
  intro r c i j
  refine ⟨fun a b => ?_, nodup_block i j, self_mem_block i j, fun hi hi' hj hj' => ?_, fun hr hi hj hj' => ?_,
    fun hc hj hi hi' => ?_, fun hr hc hi hj => ?_, length_block_le_three i j, ?_, fun hr hi a b h => ?_, fun hr hi a b h => ?_,
    fun hc hj a b h => ?_, fun hc hj a b h => ?_⟩
  · rw [mem_block]
    omega
  · rw [length_block, length_clipped_of_inner hi hi', length_clipped_of_inner hj hj']
  · rw [length_block, length_clipped_of_end hr hi, length_clipped_of_inner hj hj']
  · rw [length_block, length_clipped_of_inner hi hi', length_clipped_of_end hc hj]
  · rw [length_block, length_clipped_of_end hr hi, length_clipped_of_end hc hj]
  · rintro rfl rfl
    rw [block_eq_product, clipped_of_one, clipped_of_one]
    rfl
  all_goals
    rw [mem_block] at h
    omega

/-! ## The neighbour count (42_stepper_2d.md R74) -/

/-- The Moore neighbourhood: the cells of the block other than the cell itself. -/
def neighbours {r c : Nat} (i : Fin r) (j : Fin c) : List (Fin r × Fin c) := (block i j).erase (i, j)

section Count

variable {r c : Nat} (G : Grid r c) (i : Fin r) (j : Fin c)

theorem mem_neighbours {i : Fin r} {j : Fin c} {ab : Fin r × Fin c} :
    ab ∈ neighbours i j ↔ ab ≠ (i, j) ∧ ab ∈ block i j :=
  (nodup_block i j).mem_erase_iff

theorem length_neighbours_le_eight : (neighbours i j).length ≤ 8 := by
  rw [neighbours, List.length_erase_of_mem (self_mem_block i j)]
  exact Nat.sub_le_sub_right (length_block_le_nine i j) 1

theorem liveSum_cons (ab : Fin r × Fin c) (cells : List (Fin r × Fin c)) :
    liveSum G (ab :: cells) = G[ab.1][ab.2].toNat + liveSum G cells := by
  simp [liveSum]

/-- A sum of cells counts the live ones. -/
theorem liveSum_eq_countP (cells : List (Fin r × Fin c)) :
    liveSum G cells = cells.countP fun ab => G[ab.1][ab.2] := by
  induction cells with
  | nil => rfl
  | cons ab cells ih =>
    rw [liveSum_cons, List.countP_cons, ih, Nat.add_comm, Bool.toNat]
    cases G[ab.1][ab.2] <;> rfl

theorem liveSum_le_length (cells : List (Fin r × Fin c)) : liveSum G cells ≤ cells.length :=
  liveSum_eq_countP G cells ▸ List.countP_le_length

theorem liveSum_block_eq : liveSum G (block i j) = G[i][j].toNat + liveSum G (neighbours i j) :=
  ((List.perm_cons_erase (self_mem_block i j)).map _).sum_eq.trans (liveSum_cons G (i, j) _)

/-- The subtraction of R74 takes away the cell's own value and nothing else. -/
theorem neighbourCount_eq_liveSum : neighbourCount G i j = liveSum G (neighbours i j) := by
  rw [neighbourCount, liveSum_block_eq, gridCellAt_eq]
  exact Nat.add_sub_cancel_left ..

theorem neighbourCount_add_cell : neighbourCount G i j + G[i][j].toNat = liveSum G (block i j) := by
  rw [neighbourCount_eq_liveSum, liveSum_block_eq, Nat.add_comm]

theorem neighbourCount_eq_length_filter :
    neighbourCount G i j = ((block i j).filter fun ab => decide (ab ≠ (i, j)) && G[ab.1][ab.2]).length := by
  rw [neighbourCount_eq_liveSum, liveSum_eq_countP, neighbours, (nodup_block i j).erase_eq_filter, List.countP_filter,
    List.countP_eq_length_filter]
  simp only [Bool.and_comm, bne, beq_eq_decide, ne_eq, decide_not]

theorem neighbourCount_eq_zero {G : Grid r c} {i : Fin r} {j : Fin c}
    (h : ∀ (a : Fin r) (b : Fin c), (a, b) ∈ block i j → (a, b) ≠ (i, j) → G[a][b] = false) :
    neighbourCount G i j = 0 := by
  rw [neighbourCount_eq_liveSum, liveSum_eq_countP, List.countP_eq_zero]
  rintro ⟨a, b⟩ hab
  obtain ⟨hne, hmem⟩ := mem_neighbours.1 hab
  simpa using h a b hmem hne

end Count

/-- Settles O29: the cell is one of at most 9 of the block, and the count is the sum over the other ones. -/
theorem neighbourCountIsBounded : Obligations.NeighbourCountIsBounded := by
  intro r c G i j
  have hsum := neighbourCount_add_cell G i j
  have hnine := (liveSum_le_length G (block i j)).trans (length_block_le_nine i j)
  have height : neighbourCount G i j ≤ 8 :=
    neighbourCount_eq_liveSum G i j ▸ (liveSum_le_length G _).trans (length_neighbours_le_eight i j)
  exact ⟨by omega, hnine, hsum, neighbourCount_eq_length_filter G i j, height⟩

/-! ## Clipping and padding (42_stepper_2d.md R79) -/

/-- A sum over the indices next to `i` is one over three numbers, if what is summed is 0 outside the array. -/
theorem sum_map_clipped {m : Nat} (i : Fin m) (f : Int → Nat) (hf : ∀ a : Int, ¬ (0 ≤ a ∧ a < m) → f a = 0) :
    ((clipped i).map fun a => f a.val).sum = f (i.val - 1) + f i.val + f (i.val + 1) := by
  have hlow (h : ¬ 1 ≤ i.val) : f (i.val - 1) = 0 := hf _ (by omega)
  have hhigh (h : ¬ i.val + 1 < m) : f (i.val + 1) = 0 := hf _ (by omega)
  by_cases h : 1 ≤ i.val <;> by_cases h' : i.val + 1 < m <;> simp [clipped, h, h', hlow, hhigh, add_assoc]

theorem getElem_eq_paddedAt {r c : Nat} (G : Grid r c) (a : Fin r) (b : Fin c) :
    G[a][b] = paddedAt G a.val b.val := by
  simp [paddedAt]

/-- Outside the grid every cell is dead. -/
theorem toNat_paddedAt_of_outside {r c : Nat} (G : Grid r c) {a b : Int} (h : ¬ ((0 ≤ a ∧ a < r) ∧ (0 ≤ b ∧ b < c))) :
    (paddedAt G a b).toNat = 0 := by
  rw [paddedAt, dif_neg h, Bool.toNat_false]

/-- The three cells of row `a` around column `b`, of the padded grid. -/
def paddedRowSum {r c : Nat} (G : Grid r c) (a b : Int) : Nat :=
  (paddedAt G a (b - 1)).toNat + (paddedAt G a b).toNat + (paddedAt G a (b + 1)).toNat

/-- The block is summed row by row, and a clipped row has the sum of the padded one. -/
theorem liveSum_block_eq_padded {r c : Nat} (G : Grid r c) (i : Fin r) (j : Fin c) :
    liveSum G (block i j) =
      paddedRowSum G (i.val - 1) j.val + paddedRowSum G i.val j.val + paddedRowSum G (i.val + 1) j.val := by
  have hrow (a : Fin r) : ((clipped j).map fun b => G[a][b].toNat).sum = paddedRowSum G a.val j.val := by
    simp only [getElem_eq_paddedAt]
    exact sum_map_clipped j (fun b => (paddedAt G a.val b).toNat) fun b hb => toNat_paddedAt_of_outside G fun h => hb h.2
  have houtside (a : Int) (ha : ¬ (0 ≤ a ∧ a < r)) : paddedRowSum G a j.val = 0 := by
    simp only [paddedRowSum, toNat_paddedAt_of_outside G fun h => ha h.1]
  calc liveSum G (block i j)
      = ((clipped i).map fun a => ((clipped j).map fun b => G[a][b].toNat).sum).sum := by
        rw [liveSum, block, List.map_flatMap, List.flatMap_def, List.sum_flatten, List.map_map]
        simp only [List.map_map, Function.comp_def, gridCellAt_eq, Fin.getElem_fin]
    _ = ((clipped i).map fun a => paddedRowSum G a.val j.val).sum := by simp only [hrow]
    _ = _ := sum_map_clipped i (paddedRowSum G · j.val) houtside

/-- Settles O30: the sum over the padded block of nine, less the cell itself; and a step has the shape of its type. -/
theorem clippingIsPaddingWithDeadCells : Obligations.ClippingIsPaddingWithDeadCells := by
  refine fun r c G => ⟨fun i j => ?_, length_gridRows _, fun _ => length_of_mem_gridRows⟩
  have hcell := neighbourCount_add_cell G i j
  rw [liveSum_block_eq_padded, getElem_eq_paddedAt] at hcell
  simp only [paddedRowSum] at hcell
  omega

/-! ## The transition (42_stepper_2d.md R75, R76) -/

theorem lifeRule_dies {n : Nat} (h : n < 2 ∨ n > 3) : lifeRule true n = false := if_pos ⟨rfl, h⟩

theorem lifeRule_born : lifeRule false 3 = true := rfl

theorem lifeRule_otherwise {cell : Cell} {n : Nat} (hdies : ¬ (cell = true ∧ (n < 2 ∨ n > 3)))
    (hborn : ¬ (cell = false ∧ n = 3)) : lifeRule cell n = cell := by
  rw [lifeRule, if_neg hdies, if_neg hborn]

/-- A live cell with 2 or 3 live neighbours and a dead one without 3 keep their value. -/
theorem lifeRule_eq_self {cell : Cell} {n : Nat} (hlive : cell = true → n = 2 ∨ n = 3) (hdead : cell = false → n ≠ 3) :
    lifeRule cell n = cell := by
  refine lifeRule_otherwise (fun ⟨hcell, hn⟩ => ?_) fun ⟨hcell, hn⟩ => hdead hcell hn
  have := hlive hcell
  omega

theorem lifeRule_eq_true_iff (cell : Cell) (n : Nat) : lifeRule cell n = true ↔ n = 3 ∨ (cell = true ∧ n = 2) := by
  cases cell with
  | false => simp [lifeRule]
  | true =>
    simp only [true_and]
    by_cases hn : n < 2 ∨ n > 3
    · exact iff_of_false (by rw [lifeRule_dies hn]; decide) (by omega)
    · exact iff_of_true (lifeRule_eq_self (fun _ => by omega) nofun) (by omega)

/-- Settles O31, by the sentence that applies to the cell. -/
theorem lifeRuleAsOneExpression : Obligations.LifeRuleAsOneExpression := lifeRule_eq_true_iff

/-! ## The next grid and STEP2D (42_stepper_2d.md R78, R80) -/

theorem getElem_step2d_eq_lifeRule {r c : Nat} (G : Grid r c) (i : Fin r) (j : Fin c) :
    (step2d G)[i][j] = lifeRule G[i][j] (neighbourCount G i j) := by
  simp [nextCell2d]

theorem step2d_eq_self {r c : Nat} {G : Grid r c}
    (h : ∀ (i : Fin r) (j : Fin c), lifeRule G[i][j] (neighbourCount G i j) = G[i][j]) : step2d G = G := by
  ext i hi j hj
  exact (getElem_step2d_eq_lifeRule G ⟨i, hi⟩ ⟨j, hj⟩).trans (h ⟨i, hi⟩ ⟨j, hj⟩)

/-- Settles O32: the cell is the transition's, said as one expression. -/
theorem nextGridCellByCell : Obligations.NextGridCellByCell := by
  refine fun r c G => ⟨length_gridRows _, fun _ => length_of_mem_gridRows, fun i j => ?_⟩
  rw [getElem_step2d_eq_lifeRule, Bool.eq_iff_iff, lifeRule_eq_true_iff, decide_eq_true_iff]

/-- Settles O33: the new grid is `step2d` of the old one, and the sentences are those of the transition. -/
theorem step2dAdvancesTheGrid : Obligations.Step2dAdvancesTheGrid := by
  refine fun s hf => ⟨step2d s.grid, exec_of_commandEffect hf .step2d, fun i j => ?_⟩
  simp only [getElem_step2d_eq_lifeRule]
  refine ⟨fun hcell hn => ?_, fun hcell hn => ?_, lifeRule_otherwise⟩
  · rw [hcell, lifeRule_dies hn]
  · rw [hcell, hn, lifeRule_born]

/-! ## The document's patterns (42_stepper_2d.md R81) -/

/-- No cell of the grid is live. -/
def IsDead {r c : Nat} (G : Grid r c) : Prop := ∀ (i : Fin r) (j : Fin c), G[i][j] = false

/-- No cell of a dead grid has a live neighbour, so none is born. -/
theorem IsDead.step2d {r c : Nat} {G : Grid r c} (h : IsDead G) : IsDead (step2d G) := by
  intro i j
  rw [getElem_step2d_eq_lifeRule, h i j, neighbourCount_eq_zero fun a b _ _ => h a b]
  rfl

/-- Settles O34: a step keeps a grid dead, and so does any number of steps. -/
theorem deadGridStaysDead : Obligations.DeadGridStaysDead := fun _ _ k _ h =>
  Function.Iterate.rec IsDead h (fun _ => IsDead.step2d) k

/-- Settles O35: the count is 0, which is less than 2. -/
theorem loneLiveCellDies : Obligations.LoneLiveCellDies := by
  intro r c G i j hlive hlone
  rw [getElem_step2d_eq_lifeRule, hlive, neighbourCount_eq_zero hlone, lifeRule_dies (.inl Nat.zero_lt_two)]

/-! ### The 2x2 block

Its live cells are a product: those in one of two rows and one of two columns. So the live cells in the block of a cell are as many
as the live rows next to its row times the live columns next to its column. -/

/-- The index is `p` or `p + 1`. -/
def onPair {m : Nat} (p : Nat) (a : Fin m) : Bool := a.val = p ∨ a.val = p + 1

theorem countP_onPair {m p : Nat} (hp : p + 1 < m) (l : List (Fin m)) :
    l.countP (onPair p) = l.count ⟨p, by omega⟩ + l.count ⟨p + 1, hp⟩ := by
  induction l with
  | nil => rfl
  | cons a l ih =>
    simp only [List.countP_cons, List.count_cons, ih, onPair, decide_eq_true_eq, beq_iff_eq, Fin.ext_iff]
    split_ifs <;> omega

/-- Each index of the pair counts once if it is next to `i`. -/
theorem countP_onPair_clipped {m p : Nat} (hp : p + 1 < m) (i : Fin m) :
    (clipped i).countP (onPair p) =
      (if i.val ≤ p + 1 ∧ p ≤ i.val + 1 then 1 else 0) + (if i.val ≤ p + 2 ∧ p ≤ i.val then 1 else 0) := by
  simp [countP_onPair hp, (nodup_clipped i).count, mem_clipped]

/-- An index of the pair has both next to it. -/
theorem countP_onPair_of_on {m p : Nat} {i : Fin m} (hp : p + 1 < m) (hi : onPair p i = true) :
    (clipped i).countP (onPair p) = 2 := by
  have hi : i.val = p ∨ i.val = p + 1 := by simpa [onPair] using hi
  rw [countP_onPair_clipped hp, if_pos (by omega), if_pos (by omega)]

/-- An index off the pair has at most one of it next to it. -/
theorem countP_onPair_le_one_of_off {m p : Nat} {i : Fin m} (hp : p + 1 < m) (hi : onPair p i = false) :
    (clipped i).countP (onPair p) ≤ 1 := by
  have hi : ¬ (i.val = p ∨ i.val = p + 1) := by simpa [onPair] using hi
  rw [countP_onPair_clipped hp]
  split_ifs <;> omega

theorem countP_onPair_le_two {m p : Nat} (hp : p + 1 < m) (i : Fin m) : (clipped i).countP (onPair p) ≤ 2 := by
  rw [countP_onPair_clipped hp]
  split_ifs <;> decide

theorem countP_product {α β : Type} (P : α → Bool) (Q : β → Bool) (l : List α) (l' : List β) :
    (l ×ˢ l').countP (fun ab => P ab.1 && Q ab.2) = l.countP P * l'.countP Q := by
  induction l with
  | nil => simp
  | cons a l ih =>
    rw [List.product_cons, List.countP_append, ih, List.countP_map, List.countP_cons]
    cases hP : P a <;> simp [Function.comp_def, hP, Nat.add_mul, Nat.add_comm]

theorem liveSum_block_of_product {r c : Nat} {G : Grid r c} {P : Fin r → Bool} {Q : Fin c → Bool}
    (hG : ∀ (a : Fin r) (b : Fin c), G[a][b] = (P a && Q b)) (i : Fin r) (j : Fin c) :
    liveSum G (block i j) = (clipped i).countP P * (clipped j).countP Q := by
  simp only [liveSum_eq_countP, hG, block_eq_product, countP_product]

/-- Settles O36: a live cell has 2 * 2 live cells in its block, itself and 3 others, and survives; a dead one has at most 2 * 1,
and is not born. -/
theorem twoByTwoBlockIsAStillLife : Obligations.TwoByTwoBlockIsAStillLife := by
  intro r c G p q hp hq hG
  have hcell (a : Fin r) (b : Fin c) : G[a][b] = (onPair p a && onPair q b) := by
    rw [Bool.eq_iff_iff]
    simpa [onPair] using hG a b
  refine step2d_eq_self fun i j => ?_
  have hsum := neighbourCount_add_cell G i j
  rw [liveSum_block_of_product hcell] at hsum
  refine lifeRule_eq_self (fun hlive => .inr ?_) fun hdead => ?_
  · obtain ⟨hi, hj⟩ : onPair p i = true ∧ onPair q j = true := by rwa [hcell, Bool.and_eq_true] at hlive
    rw [hlive, countP_onPair_of_on hp hi, countP_onPair_of_on hq hj] at hsum
    exact Nat.succ.inj hsum
  · have hoff : onPair p i = false ∨ onPair q j = false := by rwa [hcell, Bool.and_eq_false_iff] at hdead
    have hle : (clipped i).countP (onPair p) * (clipped j).countP (onPair q) ≤ 2 := by
      rcases hoff with hi | hj
      · exact Nat.mul_le_mul (countP_onPair_le_one_of_off hp hi) (countP_onPair_le_two hq j)
      · exact Nat.mul_le_mul (countP_onPair_le_two hp i) (countP_onPair_le_one_of_off hq hj)
    omega

end Sys2Proof.Machine
end

section
/-! PROOFS. The housekeeping and array access commands (43_array_access.md): what NOP, CLR1D, WR1D, CLR2D and WR2D write. Each
command that is not ignored has its `CommandEffect`, so that only the cells of the new array are left to read. -/

namespace Sys2Proof.Machine

/-- Settles O41: the new generation is the old one with the cell named by `X` replaced. -/
theorem wr1dWritesOneCell : Obligations.Wr1dWritesOneCell := by
  refine fun x v s hf hx => ⟨setCell s.gen ⟨x.toNat, hx⟩ v, exec_of_commandEffect hf (.wr1d x v hx), fun i => ?_⟩
  simp only [getElem_setCell, Fin.ext_iff]

/-- Settles O42: the new grid is the old one with the cell named by `Y` and `X` replaced. -/
theorem wr2dWritesOneCell : Obligations.Wr2dWritesOneCell := by
  refine fun y x v s hf hy hx => ⟨setGridCell s.grid ⟨y.toNat, hy⟩ ⟨x.toNat, hx⟩ v,
    exec_of_commandEffect hf (.wr2d y x v hy hx), fun i j => ?_⟩
  simp only [getElem_setGridCell, Fin.ext_iff]

/-- Settles O38: a frozen block ignores NOP, and a running one has nothing written by it. -/
theorem nopChangesNothing : Obligations.NopChangesNothing := fun s => by
  cases hf : s.fault with
  | true => exact exec_of_fault .nop hf
  | false => exact exec_of_commandEffect hf .nop

/-- Settles O39: the new generation is `N` times the cell 0. -/
theorem clr1dClearsTheGeneration : Obligations.Clr1dClearsTheGeneration := fun s hf =>
  ⟨Vector.replicate s.params.n false, exec_of_commandEffect hf .clr1d, fun i => Vector.getElem_replicate i.isLt⟩

/-- Settles O40: the new grid is `R` times a row of `C` times the cell 0. -/
theorem clr2dClearsTheGrid : Obligations.Clr2dClearsTheGrid := by
  refine fun s hf => ⟨Vector.replicate s.params.r (Vector.replicate s.params.c false),
    exec_of_commandEffect hf .clr2d, fun i j => ?_⟩
  simp only [Fin.getElem_fin, Vector.getElem_replicate]

end Sys2Proof.Machine
end

section
/-! PROOFS of the exception statements (spec file 60_exceptions.md): the three causes, the priority list of an edge, and entering and
leaving the frozen state. -/

namespace Sys2Proof.Machine

variable {s t : State} {i : Instr} {w : Word} {e : PortIn} {c : Cause}

/-! ## The causes of a word (60_exceptions.md R94 to R96) -/

theorem CommandEffect.wellFormed_eq_true (h : CommandEffect s i t) : i.wellFormed s.params = true := by
  cases h with
  | nop | decode | clr1d | step1d | clr2d | step2d => rfl
  | wr1d x v hx => simpa [Instr.wellFormed] using hx
  | wr2d y x v hy hx => simp [Instr.wellFormed, hy, hx]

/-- The check of a command against the sizes fails exactly for an index out of range (20_memory.md R30). -/
theorem outOfRange_iff_wellFormed_eq_false : OutOfRange s i ↔ i.wellFormed s.params = false := by
  refine ⟨OutOfRange.wellFormed_eq_false, fun hwf => ?_⟩
  rcases outOfRange_or_commandEffect s i with hout | ⟨t, heff⟩
  · exact hout
  · simp [heff.wellFormed_eq_true] at hwf

/-- The word raises the cause in a block of the state's sizes: the decoder rejects it, or it names a cell that does not exist. -/
def Cause.RaisedBy (s : State) (w : Word) : Cause → Prop
  | .illegalOpcode => decodeWord w = .illegalOpcode
  | .reservedField => decodeWord w = .reservedField
  | .indexOutOfRange => ∃ i, decodeWord w = .instr i ∧ OutOfRange s i

/-- `classify` judges a word to fault with the causes it raises, hence with one at most. -/
theorem classify_eq_fault_iff : classify s.params w = .fault c ↔ c.RaisedBy s w := by
  cases hd : decodeWord w with
  | illegalOpcode => cases c <;> simp [classify_of_illegalOpcode _ hd, Cause.RaisedBy, hd]
  | reservedField => cases c <;> simp [classify_of_reservedField _ hd, Cause.RaisedBy, hd]
  | instr j =>
    rw [classify_of_instr _ hd]
    cases hwf : j.wellFormed s.params with
    | true => cases c <;> simp [Cause.RaisedBy, hd, outOfRange_iff_wellFormed_eq_false, hwf]
    | false => cases c <;> simp [Cause.RaisedBy, hd, outOfRange_iff_wellFormed_eq_false, hwf]

/-- A running block enters the fault that the word raises. -/
theorem runWord_of_raisedBy (hf : s.fault = false) (h : c.RaisedBy s w) : s.runWord w = .next (s.enterFault c) := by
  cases c with
  | illegalOpcode => rw [State.runWord, show decodeWord w = .illegalOpcode from h]
  | reservedField => rw [State.runWord, show decodeWord w = .reservedField from h]
  | indexOutOfRange =>
    obtain ⟨i, hd, hout⟩ := h
    rw [State.runWord, hd]
    exact exec_of_outOfRange hf hout

theorem runWord_of_execute (h : classify s.params w = .execute i) : s.runWord w = exec i s := by
  obtain ⟨hd, -⟩ := (classifyExecutesTheWellFormed _ _ _).1 h
  rw [State.runWord, hd]

/-- A command that `classify` lets execute raises no fault. -/
theorem exec_keeps_fault_of_execute (hc : classify s.params w = .execute i) (h : exec i s = .next t) :
    t.fault = s.fault := by
  obtain ⟨-, hwf⟩ := (classifyExecutesTheWellFormed _ _ _).1 hc
  by_contra hne
  obtain ⟨hout, -⟩ := outOfRange_of_fault_changed h (.inl hne)
  simp [hout.wellFormed_eq_false] at hwf

/-! ## The priority list of an edge (60_exceptions.md R97) -/

theorem clockEdge_of_fault (h : s.Takes e) (hc : classify s.params e.cmd = .fault c) :
    s.clockEdge e = .next (s.enterFault c) := by
  obtain ⟨hr, hf, hv⟩ := h
  rw [clockEdge_command hr hf hv, runWord_of_raisedBy hf (classify_eq_fault_iff.1 hc)]

theorem clockEdge_of_execute (h : s.Takes e) (hc : classify s.params e.cmd = .execute i) : s.clockEdge e = exec i s := by
  obtain ⟨hr, hf, hv⟩ := h
  rw [clockEdge_command hr hf hv, runWord_of_execute hc]

/-- Settles O8, by the entries of the list in their order. -/
theorem edgeFollowsThePriorityList : Obligations.EdgeFollowsThePriorityList := by
  intro s e
  cases hr : e.rst with
  | true => exact clockEdge_rst s hr
  | false =>
    cases hf : s.fault with
    | true => exact clockEdge_frozen hr hf
    | false =>
      cases hv : e.cmdValid with
      | false => exact clockEdge_idle hr hv
      | true =>
        cases hc : classify s.params e.cmd with
        | fault c => exact clockEdge_of_fault ⟨hr, hf, hv⟩ hc
        | execute i => exact clockEdge_of_execute ⟨hr, hf, hv⟩ hc

/-- Settles O9: the decoder's answer selects the command. -/
theorem stepRunsTheDecodedCommand : Obligations.StepRunsTheDecodedCommand := fun _ _ htake hd => step_of_instr htake hd

/-! ## Fault entry (60_exceptions.md R98) -/

theorem Cause.code_injective : Function.Injective Cause.code := by
  intro c c'
  cases c <;> cases c' <;> decide

/-- The codes of the three causes (60_exceptions.md R93). -/
theorem Cause.code_range (c : Cause) : c.code = 1 ∨ c.code = 2 ∨ c.code = 3 := by cases c <;> decide

/-- An edge that takes a running block to a frozen one is fault entry with the cause `classify` gives. -/
theorem faultEntry_of_clockEdge (h : s.clockEdge e = .next t) (hf : s.fault = false) (ht : t.fault = true) :
    ∃ c, classify s.params e.cmd = .fault c ∧ t = s.enterFault c := by
  cases hr : e.rst with
  | true =>
    rw [clockEdge_rst s hr] at h
    injection h with h
    simp [← h] at ht
  | false =>
    cases hv : e.cmdValid with
    | false =>
      rw [clockEdge_idle hr hv] at h
      injection h with h
      simp [← h, hf] at ht
    | true =>
      cases hc : classify s.params e.cmd with
      | fault c =>
        rw [clockEdge_of_fault ⟨hr, hf, hv⟩ hc] at h
        injection h with h
        exact ⟨c, rfl, h.symm⟩
      | execute i =>
        rw [clockEdge_of_execute ⟨hr, hf, hv⟩ hc] at h
        simp [exec_keeps_fault_of_execute hc h, hf] at ht

/-- Settles O48: the new state is that of `enterFault`, which writes `FAULT` and `FCAUSE` alone. -/
theorem faultEntryIsPrecise : Obligations.FaultEntryIsPrecise := by
  intro s t e h hf ht
  obtain ⟨c, hc, rfl⟩ := faultEntry_of_clockEdge h hf ht
  exact ⟨rfl, c, hc, rfl, c.code_range⟩

/-! ## Each cause by the fields of the word (60_exceptions.md R94 to R96) -/

/-- A block that takes a command enters the fault with a cause exactly if the word raises it. -/
theorem clockEdge_eq_enterFault_iff (h : s.Takes e) :
    s.clockEdge e = .next (s.enterFault c) ↔ c.RaisedBy s e.cmd := by
  rw [← classify_eq_fault_iff]
  refine ⟨fun hedge => ?_, clockEdge_of_fault h⟩
  obtain ⟨-, hf, -⟩ := h
  obtain ⟨c', hc', heq⟩ := faultEntry_of_clockEdge hedge hf rfl
  rw [hc', Cause.code_injective (congrArg State.fcause heq)]

/-- Settles O10: cause 1 is the decoder's rejection of the opcode. -/
theorem illegalOpcodeIsCauseOne : Obligations.IllegalOpcodeIsCauseOne := fun _ e h =>
  (clockEdge_eq_enterFault_iff (c := .illegalOpcode) h).trans (decodeWord_eq_illegalOpcode_iff e.cmd)

theorem decodeWord_eq_reservedField_iff_code (w : Word) :
    decodeWord w = .reservedField ↔ ∃ o : Opcode, o.code = opField w ∧ o.reservedZero w = false := by
  simp only [decodeWord_eq_reservedField_iff, ofCode_eq_some_iff]

/-- The word holds a 1 in a field reserved for its opcode, opcode by opcode (60_exceptions.md R95). -/
def ReservedNonzero (w : Word) : Prop :=
  (((opField w).toNat = 0 ∨ (opField w).toNat = 2 ∨ (opField w).toNat = 4 ∨ (opField w).toNat = 5 ∨
      (opField w).toNat = 7) ∧ (yField w ≠ 0 ∨ xField w ≠ 0 ∨ dField w ≠ 0)) ∨
  ((opField w).toNat = 1 ∧ (yField w ≠ 0 ∨ xField w ≠ 0)) ∨
  ((opField w).toNat = 3 ∧ (yField w ≠ 0 ∨ 2 ≤ (dField w).toNat)) ∨
  ((opField w).toNat = 6 ∧ 2 ≤ (dField w).toNat)

theorem ReservedNonzero.opField_lt (h : ReservedNonzero w) : (opField w).toNat < 8 := by
  unfold ReservedNonzero at h
  omega

/-- For a word of the row `o` the listing is the row's own reserved fields. -/
theorem reservedNonzero_iff_of_row {o : Opcode} (h : o.code = opField w) :
    ReservedNonzero w ↔ o.reservedZero w = false := by
  rw [ReservedNonzero, ← h]
  cases o with
  | nop | decode | clr1d | step1d | clr2d | step2d =>
    simp [Opcode.code, Opcode.reservedZero, imp_iff_not_or, or_assoc]
  | wr1d | wr2d => simp [Opcode.code, Opcode.reservedZero, imp_iff_not_or, Nat.succ_le_iff]

theorem decodeWord_eq_reservedField_iff_reservedNonzero (w : Word) :
    decodeWord w = .reservedField ↔ ReservedNonzero w := by
  rw [decodeWord_eq_reservedField_iff_code]
  constructor
  · rintro ⟨o, ho, hz⟩
    exact (reservedNonzero_iff_of_row ho).2 hz
  · intro h
    have hlegal : Opcode.ofCode (opField w) ≠ none := by
      rw [Ne, ofCode_eq_none_iff, Nat.not_le]; exact h.opField_lt
    obtain ⟨o, ho⟩ := Option.ne_none_iff_exists'.1 hlegal
    rw [ofCode_eq_some_iff] at ho
    exact ⟨o, ho, (reservedNonzero_iff_of_row ho).1 h⟩

/-- Settles O11: cause 2 is the decoder's rejection of a reserved field, which the mask of the row and the listing of R95 both
describe. -/
theorem reservedFieldIsCauseTwo : Obligations.ReservedFieldIsCauseTwo := by
  intro s e h
  have hedge := clockEdge_eq_enterFault_iff (c := .reservedField) h
  refine ⟨hedge.trans ((decodeWord_eq_reservedField_iff_code e.cmd).trans ?_),
    hedge.trans (decodeWord_eq_reservedField_iff_reservedNonzero e.cmd)⟩
  refine exists_congr fun o => and_congr_right fun ho => ?_
  simp [and_mask_eq_pattern_iff, ho]

/-- Settles O12: cause 3 is an index out of range of a word that the decoder accepts. -/
theorem indexOutOfRangeIsCauseThree : Obligations.IndexOutOfRangeIsCauseThree := by
  intro s e h
  refine (clockEdge_eq_enterFault_iff (c := .indexOutOfRange) h).trans ⟨?_, ?_⟩
  · rintro ⟨i, hd, hout⟩
    obtain ⟨o, ho, hz, rfl⟩ := (decodeWord_eq_instr_iff _ _).1 hd
    rw [ofCode_eq_some_iff] at ho
    rw [← ho]
    cases o with
    | nop | decode | clr1d | step1d | clr2d | step2d => cases hout
    | wr1d =>
      cases hout with
      | wr1d _ _ hx => left; simpa [hx, Opcode.code, Opcode.reservedZero] using hz
    | wr2d =>
      cases hout with
      | wr2d _ _ _ hyx => right; simpa [hyx, Opcode.code, Opcode.reservedZero] using hz
  · rintro (⟨hop, hx, hy, hd⟩ | ⟨hop, hyx, hd⟩)
    · refine ⟨_, (decodeWord_eq_instr_operands_iff e.cmd .wr1d).2 ⟨BitVec.eq_of_toNat_eq hop, ?_⟩, .wr1d _ _ hx⟩
      simp [Opcode.reservedZero, hy, hd]
    · refine ⟨_, (decodeWord_eq_instr_operands_iff e.cmd .wr2d).2 ⟨BitVec.eq_of_toNat_eq hop, ?_⟩, .wr2d _ _ _ hyx⟩
      simp [Opcode.reservedZero, hd]

/-! ## The frozen state (60_exceptions.md R99, R100) -/

/-- Settles O44: the meaning of each command begins with the check of `FAULT`. -/
theorem frozenBlockIgnoresEveryCommand : Obligations.FrozenBlockIgnoresEveryCommand := fun i _ hf => exec_of_fault i hf

/-- Settles O49: reset leaves every bit 0, and without reset the edge is ignored. -/
theorem onlyResetLeavesTheFrozenState : Obligations.OnlyResetLeavesTheFrozenState := by
  intro s t e h hf
  cases hr : e.rst with
  | true =>
    rw [clockEdge_rst s hr] at h
    injection h with h
    subst h
    obtain ⟨htable, hgen, hgrid, hfault, -⟩ := allZero_hardReset s
    exact ⟨iff_of_true hfault rfl, fun _ => ⟨htable, hgen, hgrid⟩, fun ht => absurd ht (by simp)⟩
  | false =>
    rw [clockEdge_frozen hr hf] at h
    injection h with h
    subst h
    simp [hf]

theorem State.NoResetScheduled.advance (h : s.NoResetScheduled) : s.advance.NoResetScheduled :=
  fun e he => h e (List.mem_of_mem_tail he)

/-- Settles O50, by induction on the number of edges: each is ignored and consumes its own inputs. -/
theorem frozenBlockStaysFrozenUntilReset : Obligations.FrozenBlockStaysFrozenUntilReset := by
  intro k
  induction k with
  | zero => exact fun _ _ _ => rfl
  | succ k ih =>
    intro s hf hrst
    calc core.run (k + 1) s = core.run k s.advance := run_succ (step_of_ignored hrst.port (.inl hf))
      _ = .next { s with pins := s.pins.tail.drop k } := ih s.advance hf hrst.advance
      _ = .next { s with pins := s.pins.drop (k + 1) } := by rw [List.drop_tail]

/-! ## The units (60_exceptions.md R102) -/

/-- Settles O47: only an index out of range changes the fault status, and the units have no index operand. -/
theorem unitsRaiseNoFault : Obligations.UnitsRaiseNoFault := by
  intro s i hi
  have hin : ¬ OutOfRange s i := by rcases hi with ⟨rule, rfl⟩ | rfl | rfl <;> nofun
  obtain ⟨t, h⟩ := exec_answers_next s i
  have hkept : ¬ (t.fault ≠ s.fault ∨ t.fcause ≠ s.fcause) := fun hne => hin (outOfRange_of_fault_changed h hne).1
  obtain ⟨hfault, hfcause⟩ := not_or.1 hkept
  exact ⟨t, h, not_not.1 hfault, not_not.1 hfcause⟩

end Sys2Proof.Machine
end

section
/-! PROOFS of the run statement (spec file 70_reset_and_hazards.md): `FAULT` in the last state decides whether a run has a result. -/

namespace Sys2Proof.Machine

variable {s : State}

/-! ## The end of a run (70_reset_and_hazards.md R117) -/

theorem State.result_of_fault (hf : s.fault = true) : s.result = none := if_pos hf

theorem State.result_of_running (hf : s.fault = false) : s.result = some (s.table, s.gen, s.grid) :=
  if_neg (Bool.eq_false_iff.1 hf)

/-- Settles O58: a failed run has no result, and a run that ended normally has the arrays of its last state. -/
theorem failedRunHasNoResult : Obligations.FailedRunHasNoResult :=
  fun _ => ⟨State.result_of_fault, State.result_of_running⟩

end Sys2Proof.Machine
end
